-- ==== Sys2Proof/Word.lean ====
section
/-! DEFINITION. The word types of the core: the 32-bit word of every register and sample (10_state.md R22,
20_memory.md R52), the byte of the bus (R54) and the 64-bit packed block (40_block_format.md R100). -/

namespace Sys2Proof

/-- A 32-bit word: a register, a command word, a binary32 encoding. -/
abbrev Word := BitVec 32

/-- A byte of the bus window. -/
abbrev Byte := BitVec 8

/-- A 64-bit packed single-channel block. -/
abbrev Block := BitVec 64

end Sys2Proof
end

