-- ==== Sys2Proof/Config.lean ====
section
/-! DEFINITION. What an implementation fixes (00_scope.md R9, 20_memory.md R51) and the free values, which the
spec leaves open and nothing in Lean can evaluate. -/

namespace Sys2Proof

/-- The parameters the spec leaves open: `SRC_WORDS` and `OUT_WORDS` (00_scope.md R9) and `CORE_BASE`
(20_memory.md R51). `LATENCY` is a scheduling freedom and the model holds no value for it (R9). -/
structure Params where
  srcWords : Nat
  outWords : Nat
  coreBase : Nat
deriving DecidableEq, Repr

/-- The ranges of 00_scope.md R9: `SRC_WORDS` in [16, 1024] and `OUT_WORDS` in [8, 1024]. -/
def Params.wf (p : Params) : Bool :=
  decide (16 ≤ p.srcWords) && decide (p.srcWords ≤ 1024) && decide (8 ≤ p.outWords) && decide (p.outWords ≤ 1024)

/-- FREE VALUE (log 4). What a byte of SRC or OUT that nothing has written since reset number `epoch` reads as, by
its window offset: "a model draws any 32-bit value for each word" (70_reset_and_hazards.md R252). -/
opaque Config.freeByte (epoch : Nat) (offset : Nat) : Byte

/-- FREE VALUE (log 5). What the `n`-th unspecified read made while BUSY returns: "a model draws any 32-bit value
for each such read" (70_reset_and_hazards.md R258). -/
opaque Config.freeRead (n : Nat) : Word

/-- FREE VALUE (log 8). The sign and the payload of the quiet NaN that an invalid binary32 operation on these
operands gives; 00_scope.md R10 does not fix them, and no command computes one (42_encoder.md R185). -/
opaque Config.nanBits (a b : Word) : BitVec 23

end Sys2Proof
end

