-- ==== Sys2Proof/Syntax.lean ====
section
/-! DEFINITION. The command set: one constructor for each row of spec/opcode_table.json (30_encoding.md R74). -/

namespace Sys2Proof

/-- The SLOT operand: which block register (30_encoding.md R71). -/
inductive Slot where
  | b0
  | b1
deriving DecidableEq, Repr

/-- The EP operand: which endpoint of a block (30_encoding.md R71). -/
inductive Ep where
  | e0
  | e1
deriving DecidableEq, Repr

/-- The channel format, the S modifier (30_encoding.md R71): unsigned for `.U`, signed for `.S`. -/
inductive Channel where
  | unsigned
  | signed
deriving DecidableEq, Repr

/-- A command. The operands are those of the row: SLOT and EP are operand fields, S and F are part of the row
(30_encoding.md R74). Numeric operands come from the argument registers and stand in no command (R73). -/
inductive Instr where
  | nop
  | encodeU (slot : Slot)
  | encodeS (slot : Slot)
  | getEpU (slot : Slot) (ep : Ep)
  | getEpS (slot : Slot) (ep : Ep)
  | setEpU (slot : Slot) (ep : Ep)
  | setEpS (slot : Slot) (ep : Ep)
  | getIdx (slot : Slot)
  | setIdx (slot : Slot)
  | getIdxXY (slot : Slot)
  | setIdxXY (slot : Slot)
  | getRUI (slot : Slot)
  | getRUF (slot : Slot)
  | getRSI (slot : Slot)
  | getRSF (slot : Slot)
  | getRValuesUI (slot : Slot)
  | getRValuesUF (slot : Slot)
  | getRValuesSI (slot : Slot)
  | getRValuesSF (slot : Slot)
deriving DecidableEq, Repr

end Sys2Proof
end

