-- ==== Sys2Proof/Machine/State.lean ====
section
/-! DEFINITION. The state of the core as plain data (10_state.md), with the host's and the platform's actions still
to come (70_reset_and_hazards.md R262, R263), and the state right after reset (R250). -/

namespace Sys2Proof.Machine

/-- The registers a command takes its operands from, and what the sequencer snapshots at issue (10_state.md R41):
ARG0 to ARG3 (R32), BUFCFG (R34), SRC_BASE and SRC_LEN (R35), DST_BASE and DST_LEN (R36). -/
structure Args where
  arg0 : Word
  arg1 : Word
  arg2 : Word
  arg3 : Word
  bufcfg : Word
  srcBase : Word
  srcLen : Word
  dstBase : Word
  dstLen : Word
deriving DecidableEq, Repr

/-- The command sequencer (10_state.md R41): idle, or busy with the issued word and the snapshot taken at issue. -/
inductive Sequencer where
  | idle
  | busy (w : Word) (args : Args)
deriving DecidableEq, Repr

/-- `numSteps` (42_encoder.md R166): the 6-point-with-extremes scheme or the 8-point uniform scheme. -/
inductive Scheme where
  | six
  | eight
deriving DecidableEq, Repr

/-- The internal scratch state (10_state.md R39), which the host can neither read nor write. -/
structure Scratch where
  /-- sc.S[0..15] -/
  samples : List Word
  /-- sc.MIN -/
  min : Word
  /-- sc.MAX -/
  max : Word
  /-- sc.HAS -/
  has : Bool
  /-- sc.N -/
  n : Scheme
  /-- sc.X -/
  x : Word
  /-- sc.Y -/
  y : Word
  /-- sc.ITER -/
  iter : Nat
  /-- sc.STEPS[0..7] -/
  steps : List Word
  /-- sc.E0 -/
  e0 : Int
  /-- sc.E1 -/
  e1 : Int
  /-- sc.PAL[0..7] -/
  pal : List Word
  /-- sc.IDX[0..15] -/
  idx : List Nat
deriving DecidableEq, Repr

/-- The width of a host access (20_memory.md R57); only 32 bits is defined on the bus window. -/
inductive BusWidth where
  | w8
  | w16
  | w32
  | w64
deriving DecidableEq, Repr

/-- What the environment can do to the core, and no more (70_reset_and_hazards.md R263). Addresses are the host's:
the window stands at CORE_BASE (20_memory.md R51). -/
inductive HostAction where
  /-- `MemRead`: a host read. -/
  | read (width : BusWidth) (addr : Nat)
  /-- `MemWrite`: a host write. The value of an access that is not 32 bits wide is never used (it faults). -/
  | write (width : BusWidth) (addr : Nat) (value : Word)
  /-- `Step`: the core completes the command in execution, if any. -/
  | complete
  /-- `Reset`: the platform asserts reset. -/
  | reset
deriving DecidableEq, Repr

/-- The host-visible registers (10_state.md R22). -/
inductive Reg where
  | id
  | cmd
  | status
  | encInfo
  | arg0
  | arg1
  | arg2
  | arg3
  | result
  | bufcfg
  | srcBase
  | srcLen
  | dstBase
  | dstLen
  | block0Lo
  | block0Hi
  | block1Lo
  | block1Hi
deriving DecidableEq, Repr

/-- What stands at a word of the bus window (20_memory.md R51): a register, SRC[j], OUT[j], or nothing. -/
inductive BusTarget where
  | reg (r : Reg)
  | src (j : Nat)
  | out (j : Nat)
  | reserved
deriving DecidableEq, Repr

/-- A memory: the bytes written, as pairs of an address and a byte, addresses strictly rising. An address that is not
listed holds no value (log 4). -/
abbrev Memory := List Host.Cell

/-- The state of the machine: the core's registers, sequencer, scratch and memories, its parameters, and the
environment's actions still to come with what its reads have returned (log 1). -/
structure State where
  /-- SRC_WORDS, OUT_WORDS and CORE_BASE (00_scope.md R9): configuration, which no step changes (10_state.md R43). -/
  params : Params
  /-- ARG0 to ARG3, BUFCFG, SRC_BASE, SRC_LEN, DST_BASE, DST_LEN as the host sees them. -/
  live : Args
  /-- STATUS (10_state.md R26). -/
  status : Word
  /-- ENC_INFO (10_state.md R31). -/
  encInfo : Word
  /-- RESULT (10_state.md R33). -/
  result : Word
  /-- BLOCK[0], of which BLOCK0_LO is bits 31:0 and BLOCK0_HI bits 63:32 (10_state.md R37). -/
  block0 : Block
  /-- BLOCK[1], of which BLOCK1_LO is bits 31:0 and BLOCK1_HI bits 63:32 (10_state.md R37). -/
  block1 : Block
  /-- The command sequencer (10_state.md R41). -/
  seq : Sequencer
  /-- The internal scratch state (10_state.md R39). -/
  sc : Scratch
  /-- SRC and OUT (20_memory.md R52, R53), by byte offset of the bus window: the bytes written since reset,
  addresses strictly rising. -/
  mem : Memory
  /-- The model's own (log 4): how many resets came before, so that unspecified contents are drawn anew at each. -/
  epoch : Nat
  /-- The model's own (log 5): how many unspecified reads came before, so that each draws its own value. -/
  draws : Nat
  /-- The model's own (log 1): the environment's actions still to come, first to come first. -/
  script : List HostAction
  /-- The model's own (log 1): the address and the value of each host read the core answered, newest first. -/
  readLog : List (Nat × Word)
deriving DecidableEq, Repr

/-- Why the machine stops with a fault (60_exceptions.md R228): the two `fault Undefined` cases, both terminal. -/
inductive Fault where
  /-- `Undefined(SrcBounds)`: raised by ENCODE.U and ENCODE.S when a gather address lies outside the source buffer or
  outside SRC (42_encoder.md R162). Safe: the hardware's result is undefined there and the model assumes none. -/
  | undefinedSrcBounds
  /-- `Undefined(BusAccess)`: raised by a host access to the bus window that is not an aligned 32-bit access
  (20_memory.md R57). Safe: the hardware's result is undefined there and the model assumes none. -/
  | undefinedBusAccess
deriving DecidableEq, Repr

/-- Why the machine refuses an instruction. -/
inductive Refusal where
  /-- The instruction has no meaning in the model; raised by an arm of `exec` only. Safe: nothing is claimed of it.
  No arm raises it. -/
  | notModelled (mnemonic : String)
deriving DecidableEq, Repr

/-- The operand registers after reset (70_reset_and_hazards.md R250). -/
def Args.reset : Args where
  arg0 := 0
  arg1 := 0
  arg2 := 0
  arg3 := 0
  bufcfg := 0
  srcBase := 0
  srcLen := 0
  dstBase := 0
  dstLen := 0

/-- DESIGN CHOICE (log 6): the scratch after reset, where the spec gives "unspecified, and never read before it is
written" (70_reset_and_hazards.md R250). -/
def Scratch.reset : Scratch where
  samples := List.replicate 16 0
  min := 0
  max := 0
  has := false
  n := .eight
  x := 0
  y := 0
  iter := 0
  steps := List.replicate 8 0
  e0 := 0
  e1 := 0
  pal := List.replicate 8 0
  idx := List.replicate 16 0

/-- The state right after reset (70_reset_and_hazards.md R250, R252) of a core with the parameters `p`, whatever
they are. Memory lists nothing: every byte is unspecified (log 4). -/
def State.resetWith (p : Params) : State where
  params := p
  live := Args.reset
  status := 0
  encInfo := 0
  result := 0
  block0 := 0
  block1 := 0
  seq := .idle
  sc := Scratch.reset
  mem := []
  epoch := 0
  draws := 0
  script := []
  readLog := []

/-- DESIGN CHOICE (log 3): the parameters of `State.reset`, those that 95_test_vectors.md section 3 assumes. -/
def defaultParams : Params := ⟨64, 64, 0⟩

/-- The machine right after reset (70_reset_and_hazards.md R250). -/
def State.reset : State := State.resetWith defaultParams

end Sys2Proof.Machine
end

