-- ==== Sys2Proof/Machine/Flags.lean ====
section
/-! DEFINITION. The STATUS and ENC_INFO words (10_state.md R26 to R31): every way the core changes them, and their
fields. The core has no other flags (R38). -/

namespace Sys2Proof.Machine

/-- The error codes (60_exceptions.md R221). -/
inductive ErrCode where
  | none
  | missingArgument
  | outOfRange
  | illegalCommand
deriving DecidableEq, Repr

/-- The value of STATUS.ERR for an error code (60_exceptions.md R221). -/
def ErrCode.code : ErrCode → Nat
  | .none => 0
  | .missingArgument => 1
  | .outOfRange => 2
  | .illegalCommand => 3

/-- STATUS.BUSY, bit 0 (10_state.md R26). -/
def statusBusy (st : Word) : Bool := st.getLsbD 0

/-- STATUS.DONE, bit 1 (10_state.md R26). -/
def statusDone (st : Word) : Bool := st.getLsbD 1

/-- STATUS.OVERRUN, bit 2 (10_state.md R26). -/
def statusOverrun (st : Word) : Bool := st.getLsbD 2

/-- STATUS.ERR, bits 7:4 (10_state.md R26). -/
def statusErr (st : Word) : Nat := st.toNat / 16 % 16

/-- The bits of STATUS that are not reserved (10_state.md R26). -/
def statusMask : Word := 0x000000F7

/-- STATUS at issue (10_state.md R25): BUSY 1, DONE 0, OVERRUN 0, ERR 0. -/
def statusAtIssue : Word := 0x00000001

/-- STATUS at completion (10_state.md R27 to R30, 70_reset_and_hazards.md R256): BUSY 0, DONE 1, ERR the code, and
OVERRUN as it is. -/
def statusAtCompletion (st : Word) (c : ErrCode) : Word := (st &&& 0x4) ||| BitVec.ofNat 32 (2 + 16 * c.code)

/-- STATUS at a host write during BUSY (10_state.md R29): OVERRUN 1, the rest as it is. -/
def statusAtOverrun (st : Word) : Word := st ||| 0x4

/-- ENC_INFO at the completion of a successful ENCODE (42_encoder.md R184): ITERS, SIX, SIGNED and VALID = 1. -/
def encInfoWord (iters : Nat) (six signed : Bool) : Word :=
  BitVec.ofNat 32 (iters % 16 + 16 * six.toNat + 32 * signed.toNat + 64)

/-- The bits of ENC_INFO that are not reserved (10_state.md R31). -/
def encInfoMask : Word := 0x0000007F

/-- The bits of BUFCFG that are not reserved (10_state.md R34). -/
def bufcfgMask : Word := 0x00000003

/-- BUFCFG.SRC_VALID, bit 0 (10_state.md R34). -/
def srcValid (bufcfg : Word) : Bool := bufcfg.getLsbD 0

/-- BUFCFG.DST_VALID, bit 1 (10_state.md R34). -/
def dstValid (bufcfg : Word) : Bool := bufcfg.getLsbD 1

end Sys2Proof.Machine
end

