-- ==== Sys2Proof/Machine/Operands.lean ====
section
/-! DEFINITION. Operand assembly (30_encoding.md R73): the argument registers as signed integers, the buffer
descriptors as unsigned integers, the block a command names, and the range checks of the commands. -/

namespace Sys2Proof.Machine

/-- The operand registers a command reads: the snapshot taken at issue (10_state.md R41). With no command in
execution there is none, and the live registers, which it would equal, stand for it (log 10). -/
def State.operands (s : State) : Args :=
  match s.seq with
  | .busy _ a => a
  | .idle => s.live

/-- `sext_32(x[ARG0])` (30_encoding.md R73). -/
def State.argInt0 (s : State) : Int := s.operands.arg0.toInt

/-- `sext_32(x[ARG1])` (30_encoding.md R73). -/
def State.argInt1 (s : State) : Int := s.operands.arg1.toInt

/-- `sext_32(x[ARG2])` (30_encoding.md R73). -/
def State.argInt2 (s : State) : Int := s.operands.arg2.toInt

/-- `sext_32(x[ARG3])` (30_encoding.md R73). -/
def State.argInt3 (s : State) : Int := s.operands.arg3.toInt

/-- `BLOCK[SLOT]` (10_state.md R37). -/
def State.block (s : State) : Slot → Block
  | .b0 => s.block0
  | .b1 => s.block1

/-- `BLOCK[SLOT] <- v` (10_state.md R37). -/
def State.setBlock (s : State) : Slot → Block → State
  | .b0, v => { s with block0 := v }
  | .b1, v => { s with block1 := v }

/-- `lo <= v <= hi` on mathematical integers. -/
def inRange (v lo hi : Int) : Bool := decide (lo ≤ v) && decide (v ≤ hi)

/-- The coordinate mapping `i = y*4 + x` (40_block_format.md R108). -/
def coordIndex (x y : Int) : Nat := (y * 4 + x).toNat

/-- An index is in [0, 15] (40_block_format.md R113). -/
def indexOk (i : Int) : Bool := inRange i 0 15

/-- A coordinate is in [0, 3] (40_block_format.md R115). -/
def coordOk (x : Int) : Bool := inRange x 0 3

/-- An index value or a palette slot is in [0, 7] (40_block_format.md R114, 41_palette.md R138). -/
def slotOk (v : Int) : Bool := inRange v 0 7

end Sys2Proof.Machine
end

