-- ==== Sys2Proof/Machine/Block.lean ====
section
/-! DEFINITION. The packed block (40_block_format.md R100 to R107): its endpoint and index fields. -/

namespace Sys2Proof.Machine

/-- The place of an endpoint byte: bits 7:0 for endpoint0, 15:8 for endpoint1 (40_block_format.md R100). -/
def epShift : Ep → Nat
  | .e0 => 0
  | .e1 => 8

/-- The place of index `i`: bits 16+3i+2 : 16+3i (40_block_format.md R100). -/
def idxShift (i : Nat) : Nat := 16 + 3 * i

/-- `EpRaw` (40_block_format.md R104). -/
def epRaw (b : Block) (ep : Ep) : Byte := b.extractLsb' (epShift ep) 8

/-- `EpValue` (40_block_format.md R104): a signed -128 reads as -127. -/
def epValue (b : Block) (ep : Ep) : Channel → Int
  | .unsigned => (epRaw b ep).toNat
  | .signed => if (epRaw b ep).toInt = -128 then -127 else (epRaw b ep).toInt

/-- The bits of a block with the field at `sh` of `width` bits replaced. -/
def setField (b : Block) (sh width v : Nat) : Block :=
  (b &&& ~~~(BitVec.ofNat 64 ((2 ^ width - 1) * 2 ^ sh))) ||| BitVec.ofNat 64 (v % 2 ^ width * 2 ^ sh)

/-- The two's-complement byte of an endpoint value (40_block_format.md R105: `v mod 256`, log 17). -/
def epByte (v : Int) : Nat := (v % 256).toNat

/-- The values `EpWrite` accepts (40_block_format.md R105). -/
def epWriteOk (v : Int) : Channel → Bool
  | .unsigned => inRange v 0 255
  | .signed => inRange v (-128) 127

/-- The value `EpWrite` stores (40_block_format.md R105): a signed -128 is stored as -127. -/
def epStored (v : Int) : Channel → Int
  | .unsigned => v
  | .signed => if v = -128 then -127 else v

/-- `EpWrite` (40_block_format.md R105), on an accepted value. -/
def epWrite (b : Block) (ep : Ep) (ch : Channel) (v : Int) : Block := setField b (epShift ep) 8 (epByte (epStored v ch))

/-- `IdxGet` (40_block_format.md R106). -/
def idxGet (b : Block) (i : Nat) : BitVec 3 := b.extractLsb' (idxShift i) 3

/-- `IdxSet` (40_block_format.md R107). -/
def idxSet (b : Block) (i v : Nat) : Block := setField b (idxShift i) 3 v

/-- The 48 index bits of a list of indices (42_encoder.md R181): index `i` at 16+3i, from `i` on. -/
def packIndices : Nat → List Nat → Block
  | _, [] => 0
  | i, v :: vs => BitVec.ofNat 64 (v * 2 ^ idxShift i) ||| packIndices (i + 1) vs

/-- `Pack` (42_encoder.md R181). -/
def pack (e0 e1 : Int) (idx : List Nat) : Block :=
  BitVec.ofNat 64 (epByte e0) ||| BitVec.ofNat 64 (epByte e1 * 2 ^ 8) ||| packIndices 0 idx

end Sys2Proof.Machine
end

