-- ==== Sys2Proof/WellFormed.lean ====
section
/-! DEFINITION. Which commands are legal (30_encoding.md R71, R72, R74). A command is looked at as the six fields of
its word, any of which a host may fill as it likes; the check says which fillings are legal. The fields of an
`Instr` are legal by the way it is built, and that is a statement of its own. -/

namespace Sys2Proof

/-- The fields of a command word (30_encoding.md R71), before any check. -/
structure CmdFields where
  op : BitVec 4
  s : Bool
  f : Bool
  slot : Bool
  ep : Bool
  res : BitVec 24
deriving DecidableEq, Repr

/-- OP is one of the ten assigned values (30_encoding.md R74, R75: 0xA to 0xF are reserved). -/
def CmdFields.opAssigned (c : CmdFields) : Bool := decide (c.op.toNat < 10)

/-- The operations that use S (30_encoding.md R74): ENCODE, GET_EP, SET_EP, GET_R, GET_RVALUES. -/
def CmdFields.usesS (c : CmdFields) : Bool := c.op == 1 || c.op == 2 || c.op == 3 || c.op == 8 || c.op == 9

/-- The operations that use F (30_encoding.md R74): GET_R and GET_RVALUES. -/
def CmdFields.usesF (c : CmdFields) : Bool := c.op == 8 || c.op == 9

/-- The operations that use SLOT (30_encoding.md R74): all but NOP. -/
def CmdFields.usesSlot (c : CmdFields) : Bool := c.op != 0

/-- The operations that use EP (30_encoding.md R74): GET_EP and SET_EP. -/
def CmdFields.usesEp (c : CmdFields) : Bool := c.op == 2 || c.op == 3

/-- Every modifier the operation does not use is 0 (30_encoding.md R72, second condition). -/
def CmdFields.modifiersLegal (c : CmdFields) : Bool :=
  (c.usesS || !c.s) && (c.usesF || !c.f) && (c.usesSlot || !c.slot) && (c.usesEp || !c.ep)

/-- 30_encoding.md R72: a command word is legal when OP is assigned, RES is 0 and every unused modifier is 0. -/
def CmdFields.legal (c : CmdFields) : Bool := c.opAssigned && c.res == 0 && c.modifiersLegal

/-- The SLOT bit of an operand (30_encoding.md R71). -/
def Slot.bit : Slot → Bool
  | .b0 => false
  | .b1 => true

/-- The EP bit of an operand (30_encoding.md R71). -/
def Ep.bit : Ep → Bool
  | .e0 => false
  | .e1 => true

/-- The S bit of a channel format (30_encoding.md R71). -/
def Channel.bit : Channel → Bool
  | .unsigned => false
  | .signed => true

/-- The fields of a command, from the opcode map (30_encoding.md R74). -/
def Instr.fields : Instr → CmdFields
  | .nop => ⟨0, false, false, false, false, 0⟩
  | .encodeU sl => ⟨1, false, false, sl.bit, false, 0⟩
  | .encodeS sl => ⟨1, true, false, sl.bit, false, 0⟩
  | .getEpU sl e => ⟨2, false, false, sl.bit, e.bit, 0⟩
  | .getEpS sl e => ⟨2, true, false, sl.bit, e.bit, 0⟩
  | .setEpU sl e => ⟨3, false, false, sl.bit, e.bit, 0⟩
  | .setEpS sl e => ⟨3, true, false, sl.bit, e.bit, 0⟩
  | .getIdx sl => ⟨4, false, false, sl.bit, false, 0⟩
  | .setIdx sl => ⟨5, false, false, sl.bit, false, 0⟩
  | .getIdxXY sl => ⟨6, false, false, sl.bit, false, 0⟩
  | .setIdxXY sl => ⟨7, false, false, sl.bit, false, 0⟩
  | .getRUI sl => ⟨8, false, false, sl.bit, false, 0⟩
  | .getRUF sl => ⟨8, false, true, sl.bit, false, 0⟩
  | .getRSI sl => ⟨8, true, false, sl.bit, false, 0⟩
  | .getRSF sl => ⟨8, true, true, sl.bit, false, 0⟩
  | .getRValuesUI sl => ⟨9, false, false, sl.bit, false, 0⟩
  | .getRValuesUF sl => ⟨9, false, true, sl.bit, false, 0⟩
  | .getRValuesSI sl => ⟨9, true, false, sl.bit, false, 0⟩
  | .getRValuesSF sl => ⟨9, true, true, sl.bit, false, 0⟩

/-- A command is well-formed when its fields are legal (30_encoding.md R72). -/
def Instr.wf (i : Instr) : Bool := i.fields.legal

end Sys2Proof
end

