-- ==== Sys2Proof/Decode.lean ====
section
/-! DEFINITION. Decoding a command word (30_encoding.md R71 to R75), total on every word and rejecting by name, and
encoding a command (R77, R79). All illegal words end alike for the host, with ILLEGAL_COMMAND (R72). -/

namespace Sys2Proof

/-- Why a command word is illegal (30_encoding.md R75). The names are the model's; the host sees one code (log 18). -/
inductive DecodeError where
  /-- OP is 0xA to 0xF. -/
  | reservedOp
  /-- A bit of RES is 1. -/
  | reservedBits
  /-- A modifier that the operation does not use is 1. -/
  | unusedModifier
deriving DecidableEq, Repr

/-- The fields of a command word (30_encoding.md R71). -/
def fieldsOf (w : Word) : CmdFields where
  op := w.extractLsb' 0 4
  s := w.getLsbD 4
  f := w.getLsbD 5
  slot := w.getLsbD 6
  ep := w.getLsbD 7
  res := w.extractLsb' 8 24

/-- The SLOT operand of a bit. -/
def slotOf (b : Bool) : Slot := if b then .b1 else .b0

/-- The EP operand of a bit. -/
def epOf (b : Bool) : Ep := if b then .e1 else .e0

/-- The command of an operation number and its modifiers S, F, SLOT, EP (30_encoding.md R74). -/
def decodeOp : Nat → Bool → Bool → Bool → Bool → Except DecodeError Instr
  | 0, false, false, false, false => .ok .nop
  | 1, false, false, sl, false => .ok (.encodeU (slotOf sl))
  | 1, true, false, sl, false => .ok (.encodeS (slotOf sl))
  | 2, false, false, sl, e => .ok (.getEpU (slotOf sl) (epOf e))
  | 2, true, false, sl, e => .ok (.getEpS (slotOf sl) (epOf e))
  | 3, false, false, sl, e => .ok (.setEpU (slotOf sl) (epOf e))
  | 3, true, false, sl, e => .ok (.setEpS (slotOf sl) (epOf e))
  | 4, false, false, sl, false => .ok (.getIdx (slotOf sl))
  | 5, false, false, sl, false => .ok (.setIdx (slotOf sl))
  | 6, false, false, sl, false => .ok (.getIdxXY (slotOf sl))
  | 7, false, false, sl, false => .ok (.setIdxXY (slotOf sl))
  | 8, false, false, sl, false => .ok (.getRUI (slotOf sl))
  | 8, false, true, sl, false => .ok (.getRUF (slotOf sl))
  | 8, true, false, sl, false => .ok (.getRSI (slotOf sl))
  | 8, true, true, sl, false => .ok (.getRSF (slotOf sl))
  | 9, false, false, sl, false => .ok (.getRValuesUI (slotOf sl))
  | 9, false, true, sl, false => .ok (.getRValuesUF (slotOf sl))
  | 9, true, false, sl, false => .ok (.getRValuesSI (slotOf sl))
  | 9, true, true, sl, false => .ok (.getRValuesSF (slotOf sl))
  | op, _, _, _, _ => if op < 10 then .error .unusedModifier else .error .reservedOp

/-- 30_encoding.md R72: the command of a word, or why it is illegal. -/
def decode (w : Word) : Except DecodeError Instr :=
  if (fieldsOf w).res = 0 then
    decodeOp (fieldsOf w).op.toNat (fieldsOf w).s (fieldsOf w).f (fieldsOf w).slot (fieldsOf w).ep
  else .error .reservedBits

/-- 30_encoding.md R77: `OP | S<<4 | F<<5 | SLOT<<6 | EP<<7`. -/
def assemble (op : Nat) (s f slot ep : Bool) : Word :=
  BitVec.ofNat 32 (op + 16 * s.toNat + 32 * f.toNat + 64 * slot.toNat + 128 * ep.toNat)

/-- The word of a command (30_encoding.md R74, R77, R79). -/
def encode : Instr → Word
  | .nop => assemble 0 false false false false
  | .encodeU sl => assemble 1 false false sl.bit false
  | .encodeS sl => assemble 1 true false sl.bit false
  | .getEpU sl e => assemble 2 false false sl.bit e.bit
  | .getEpS sl e => assemble 2 true false sl.bit e.bit
  | .setEpU sl e => assemble 3 false false sl.bit e.bit
  | .setEpS sl e => assemble 3 true false sl.bit e.bit
  | .getIdx sl => assemble 4 false false sl.bit false
  | .setIdx sl => assemble 5 false false sl.bit false
  | .getIdxXY sl => assemble 6 false false sl.bit false
  | .setIdxXY sl => assemble 7 false false sl.bit false
  | .getRUI sl => assemble 8 false false sl.bit false
  | .getRUF sl => assemble 8 false true sl.bit false
  | .getRSI sl => assemble 8 true false sl.bit false
  | .getRSF sl => assemble 8 true true sl.bit false
  | .getRValuesUI sl => assemble 9 false false sl.bit false
  | .getRValuesUF sl => assemble 9 false true sl.bit false
  | .getRValuesSI sl => assemble 9 true false sl.bit false
  | .getRValuesSF sl => assemble 9 true true sl.bit false

/-- The mask of a command's row in spec/opcode_table.json: every bit but the SLOT and EP bits the row uses as
operands (30_encoding.md R74). -/
def rowMask : Instr → Word
  | .nop => 0xFFFFFFFF
  | .getEpU _ _ => 0xFFFFFF3F
  | .getEpS _ _ => 0xFFFFFF3F
  | .setEpU _ _ => 0xFFFFFF3F
  | .setEpS _ _ => 0xFFFFFF3F
  | .encodeU _ => 0xFFFFFFBF
  | .encodeS _ => 0xFFFFFFBF
  | .getIdx _ => 0xFFFFFFBF
  | .setIdx _ => 0xFFFFFFBF
  | .getIdxXY _ => 0xFFFFFFBF
  | .setIdxXY _ => 0xFFFFFFBF
  | .getRUI _ => 0xFFFFFFBF
  | .getRUF _ => 0xFFFFFFBF
  | .getRSI _ => 0xFFFFFFBF
  | .getRSF _ => 0xFFFFFFBF
  | .getRValuesUI _ => 0xFFFFFFBF
  | .getRValuesUF _ => 0xFFFFFFBF
  | .getRValuesSI _ => 0xFFFFFFBF
  | .getRValuesSF _ => 0xFFFFFFBF

/-- The match value of a command's row in spec/opcode_table.json (30_encoding.md R74). -/
def rowMatch : Instr → Word
  | .nop => 0x00000000
  | .encodeU _ => 0x00000001
  | .encodeS _ => 0x00000011
  | .getEpU _ _ => 0x00000002
  | .getEpS _ _ => 0x00000012
  | .setEpU _ _ => 0x00000003
  | .setEpS _ _ => 0x00000013
  | .getIdx _ => 0x00000004
  | .setIdx _ => 0x00000005
  | .getIdxXY _ => 0x00000006
  | .setIdxXY _ => 0x00000007
  | .getRUI _ => 0x00000008
  | .getRUF _ => 0x00000028
  | .getRSI _ => 0x00000018
  | .getRSF _ => 0x00000038
  | .getRValuesUI _ => 0x00000009
  | .getRValuesUF _ => 0x00000029
  | .getRValuesSI _ => 0x00000019
  | .getRValuesSF _ => 0x00000039

/-- The instruction the decoder reads from the table's bits: the word the host writes to CMD (30_encoding.md R70:
every command is one 32-bit word). Bits from `nbits` up are 0; a number that needs more than 32 bits is no command
word. -/
def decodeTableWord (nbits w : Nat) : Option Instr :=
  if w % 2 ^ nbits < 2 ^ 32 then
    match decode (BitVec.ofNat 32 (w % 2 ^ nbits)) with
    | .ok i => some i
    | .error _ => none
  else none

end Sys2Proof
end

