-- ==== Sys2Proof/Machine/Ops.lean ====
section
/-! DEFINITION. The operations every command and every host access is made of: memory, the end of a command with and
without an error, issue, reset, and the host's reads and writes of the bus window. -/

namespace Sys2Proof.Machine

/-! ### Memory -/

/-- The value a listed address holds; an address that is not listed holds none (log 4). -/
def Memory.readByte? : Memory → Nat → Option Byte
  | [], _ => none
  | (k, b) :: rest, a => if k = a then some b else Memory.readByte? rest a

/-- Store a byte, keeping the addresses strictly rising. -/
def Memory.writeByte : Memory → Nat → Byte → Memory
  | [], a, b => [(a, b)]
  | (k, c) :: rest, a, b =>
    if a < k then (a, b) :: (k, c) :: rest
    else if a = k then (a, b) :: rest
    else (k, c) :: Memory.writeByte rest a b

/-- The canonical form of a memory: addresses strictly rising. An unlisted address holds no value, so no entry can
equal what one holds, and equal stores are equal lists. -/
abbrev Memory.wf (m : Memory) : Prop := (m.map Prod.fst).Pairwise (· < ·)

/-- Byte `k` of a word is its bits 8k+7:8k (20_memory.md R54). -/
def byteOf (w : Word) (k : Nat) : Byte := w.extractLsb' (8 * k) 8

/-- The word of four bytes, the first at the lowest address (20_memory.md R54: little-endian). -/
def wordOfBytes (b0 b1 b2 b3 : Byte) : Word := (b3 ++ b2 ++ b1 ++ b0 : BitVec 32)

/-- Store a word at a byte offset (20_memory.md R54). -/
def Memory.writeWord (m : Memory) (o : Nat) (w : Word) : Memory :=
  (((m.writeByte o (byteOf w 0)).writeByte (o + 1) (byteOf w 1)).writeByte (o + 2) (byteOf w 2)).writeByte (o + 3) (byteOf w 3)

/-- What a byte of SRC or OUT reads as: the byte written last, or the free value of a byte that nothing has written
since reset (70_reset_and_hazards.md R252, log 4). -/
def State.readByte (s : State) (a : Nat) : Byte := (s.mem.readByte? a).getD (Config.freeByte s.epoch a)

/-- What the word at a byte offset of SRC or OUT reads as (20_memory.md R54). -/
def State.readWord (s : State) (o : Nat) : Word :=
  wordOfBytes (s.readByte o) (s.readByte (o + 1)) (s.readByte (o + 2)) (s.readByte (o + 3))

/-- Where SRC[j] stands in the window (20_memory.md R51). -/
def srcOffset (j : Nat) : Nat := 0x1000 + 4 * j

/-- Where OUT[j] stands in the window (20_memory.md R51). -/
def outOffset (j : Nat) : Nat := 0x2000 + 4 * j

/-- `SrcRead(j)` (00_scope.md R13, 20_memory.md R52): the word, bit for bit. -/
def State.srcRead (s : State) (j : Nat) : Word := s.readWord (srcOffset j)

/-- `OutWrite(j, w)` (00_scope.md R13, 20_memory.md R53). -/
def State.outWrite (s : State) (j : Nat) (w : Word) : State := { s with mem := s.mem.writeWord (outOffset j) w }

/-- `OutWrite` of each word of a list at rising indices from `j` on (41_palette.md R143). -/
def State.outWriteAll (s : State) : Nat → List Word → State
  | _, [] => s
  | j, w :: ws => State.outWriteAll (s.outWrite j w) (j + 1) ws

/-! ### The end of a command -/

/-- The STATUS part of completion and the return of the sequencer to idle (70_reset_and_hazards.md R255, R256). -/
def State.finish (s : State) (c : ErrCode) : State :=
  { s with seq := .idle, status := statusAtCompletion s.status c }

/-- A successful completion (70_reset_and_hazards.md R256): the command's writes, made before, become visible with it,
in the one step. -/
def State.complete (s : State) : State := s.finish .none

/-- `raise Error(code)` (60_exceptions.md R222), the one exception entry of the core: the command completes with the
code, and nothing changes but STATUS and the sequencer. There is no trap, no vector and no return (R226, R227). -/
def State.raiseError (s : State) (c : ErrCode) : State := s.finish c

/-! ### Issue and reset -/

/-- The issue of a command word (10_state.md R25, R41): STATUS at issue, and the sequencer busy with the word and the
snapshot of the operand registers. -/
def State.issue (s : State) (w : Word) : State := { s with status := statusAtIssue, seq := .busy w s.live }

/-- The reset event (70_reset_and_hazards.md R250 to R252), in one step, at any time: a command in execution is
abandoned. The parameters are the core's own; the environment's script and read log are not the core's (log 16). -/
def State.resetEvent (s : State) : State :=
  { State.resetWith s.params with
    epoch := s.epoch + 1, draws := s.draws, script := s.script, readLog := s.readLog }

/-! ### The bus window -/

/-- The byte offset of a register (10_state.md R22). -/
def Reg.offset : Reg → Nat
  | .id => 0x00
  | .cmd => 0x04
  | .status => 0x08
  | .encInfo => 0x0C
  | .arg0 => 0x10
  | .arg1 => 0x14
  | .arg2 => 0x18
  | .arg3 => 0x1C
  | .result => 0x20
  | .bufcfg => 0x24
  | .srcBase => 0x28
  | .srcLen => 0x2C
  | .dstBase => 0x30
  | .dstLen => 0x34
  | .block0Lo => 0x40
  | .block0Hi => 0x44
  | .block1Lo => 0x48
  | .block1Hi => 0x4C

/-- All registers, in the order of their offsets (10_state.md R22). -/
def allRegs : List Reg :=
  [.id, .cmd, .status, .encInfo, .arg0, .arg1, .arg2, .arg3, .result, .bufcfg, .srcBase, .srcLen, .dstBase, .dstLen,
    .block0Lo, .block0Hi, .block1Lo, .block1Hi]

/-- What stands at a 4-aligned offset below 0x3000 (20_memory.md R51). -/
def busTarget (p : Params) (o : Nat) : BusTarget :=
  if o < 0x1000 then
    match allRegs.find? (fun r => r.offset == o) with
    | some r => .reg r
    | none => .reserved
  else if o < 0x2000 then
    if (o - 0x1000) / 4 < p.srcWords then .src ((o - 0x1000) / 4) else .reserved
  else
    if (o - 0x2000) / 4 < p.outWords then .out ((o - 0x2000) / 4) else .reserved

/-- What a read of a register returns (10_state.md R22 to R37). ID is hard-wired (R24), CMD reads 0 (R25), reserved
bits read 0 (R23). -/
def State.regRead (s : State) : Reg → Word
  | .id => 0x42433435
  | .cmd => 0
  | .status => s.status &&& statusMask
  | .encInfo => s.encInfo &&& encInfoMask
  | .arg0 => s.live.arg0
  | .arg1 => s.live.arg1
  | .arg2 => s.live.arg2
  | .arg3 => s.live.arg3
  | .result => s.result
  | .bufcfg => s.live.bufcfg &&& bufcfgMask
  | .srcBase => s.live.srcBase
  | .srcLen => s.live.srcLen
  | .dstBase => s.live.dstBase
  | .dstLen => s.live.dstLen
  | .block0Lo => s.block0.extractLsb' 0 32
  | .block0Hi => s.block0.extractLsb' 32 32
  | .block1Lo => s.block1.extractLsb' 0 32
  | .block1Hi => s.block1.extractLsb' 32 32

/-- The low half of a block replaced. -/
def withLo (b : Block) (v : Word) : Block := (b.extractLsb' 32 32 ++ v : BitVec 64)

/-- The high half of a block replaced. -/
def withHi (b : Block) (v : Word) : Block := (v ++ b.extractLsb' 0 32 : BitVec 64)

/-- What a host write to a register does when no command is in execution (10_state.md R23): an RW register takes the
value, less its reserved bits; CMD issues (R25); the RO registers ignore it. -/
def State.regWrite (s : State) (v : Word) : Reg → State
  | .id => s
  | .cmd => s.issue v
  | .status => s
  | .encInfo => s
  | .arg0 => { s with live := { s.live with arg0 := v } }
  | .arg1 => { s with live := { s.live with arg1 := v } }
  | .arg2 => { s with live := { s.live with arg2 := v } }
  | .arg3 => { s with live := { s.live with arg3 := v } }
  | .result => s
  | .bufcfg => { s with live := { s.live with bufcfg := v &&& bufcfgMask } }
  | .srcBase => { s with live := { s.live with srcBase := v } }
  | .srcLen => { s with live := { s.live with srcLen := v } }
  | .dstBase => { s with live := { s.live with dstBase := v } }
  | .dstLen => { s with live := { s.live with dstLen := v } }
  | .block0Lo => { s with block0 := withLo s.block0 v }
  | .block0Hi => { s with block0 := withHi s.block0 v }
  | .block1Lo => { s with block1 := withLo s.block1 v }
  | .block1Hi => { s with block1 := withHi s.block1 v }

/-- The value a word of the window holds (20_memory.md R51 to R53, R58). -/
def State.targetRead (s : State) : BusTarget → Word
  | .reg r => s.regRead r
  | .src j => s.srcRead j
  | .out j => s.readWord (outOffset j)
  | .reserved => 0

/-- A host write with no command in execution (20_memory.md R51 to R53, R58, R59). -/
def State.targetWrite (s : State) (v : Word) : BusTarget → State
  | .reg r => s.regWrite v r
  | .src j => { s with mem := s.mem.writeWord (srcOffset j) v }
  | .out j => { s with mem := s.mem.writeWord (outOffset j) v }
  | .reserved => s

/-- The words whose reads are unspecified while BUSY (70_reset_and_hazards.md R258): RESULT, ENC_INFO, the BLOCK
registers and OUT. -/
def unspecifiedWhileBusy : BusTarget → Bool
  | .reg .result => true
  | .reg .encInfo => true
  | .reg .block0Lo => true
  | .reg .block0Hi => true
  | .reg .block1Lo => true
  | .reg .block1Hi => true
  | .reg .id => false
  | .reg .cmd => false
  | .reg .status => false
  | .reg .arg0 => false
  | .reg .arg1 => false
  | .reg .arg2 => false
  | .reg .arg3 => false
  | .reg .bufcfg => false
  | .reg .srcBase => false
  | .reg .srcLen => false
  | .reg .dstBase => false
  | .reg .dstLen => false
  | .src _ => false
  | .out _ => true
  | .reserved => false

/-- How many bytes an access covers. -/
def BusWidth.bytes : BusWidth → Nat
  | .w8 => 1
  | .w16 => 2
  | .w32 => 4
  | .w64 => 8

/-- The access covers a byte of the window, which stands at CORE_BASE (20_memory.md R51) and has 0x3000 bytes (R50).
An access that does not is no access to the core (R58, log 14). -/
def touchesWindow (p : Params) (width : BusWidth) (addr : Nat) : Bool :=
  decide (addr < p.coreBase + 0x3000) && decide (p.coreBase < addr + width.bytes)

/-- The one kind of access the window defines (20_memory.md R57): 32 bits, at a 4-aligned offset. -/
def accessDefined (p : Params) (width : BusWidth) (addr : Nat) : Bool :=
  width == .w32 && decide (p.coreBase ≤ addr) && (addr - p.coreBase) % 4 == 0

/-- A 32-bit read of a word of the window. While BUSY, an unspecified word gives a free value and the next one is
drawn anew (70_reset_and_hazards.md R258, log 5); no read changes any state of the core (20_memory.md R59). -/
def State.busRead (s : State) (addr : Nat) (t : BusTarget) : State :=
  if statusBusy s.status && unspecifiedWhileBusy t then
    { s with draws := s.draws + 1, readLog := (addr, Config.freeRead s.draws) :: s.readLog }
  else { s with readLog := (addr, s.targetRead t) :: s.readLog }

/-- A 32-bit write of a word of the window. While BUSY it is ignored and sets OVERRUN (70_reset_and_hazards.md R257). -/
def State.busWrite (s : State) (v : Word) (t : BusTarget) : State :=
  if statusBusy s.status then { s with status := statusAtOverrun s.status } else s.targetWrite v t

/-- `MemRead` (70_reset_and_hazards.md R263; 20_memory.md R57, R58). -/
def State.hostRead (s : State) (width : BusWidth) (addr : Nat) : Host.Outcome State Fault Refusal :=
  if touchesWindow s.params width addr then
    if accessDefined s.params width addr then
      .next (s.busRead addr (busTarget s.params (addr - s.params.coreBase)))
    else .fault .undefinedBusAccess
  else .next s

/-- `MemWrite` (70_reset_and_hazards.md R263, R257; 20_memory.md R57, R58). -/
def State.hostWrite (s : State) (width : BusWidth) (addr : Nat) (v : Word) : Host.Outcome State Fault Refusal :=
  if touchesWindow s.params width addr then
    if accessDefined s.params width addr then
      .next (s.busWrite v (busTarget s.params (addr - s.params.coreBase)))
    else .fault .undefinedBusAccess
  else .next s

/-- The 8 bytes of a block as it is stored or transmitted: byte `k` is bits 8k+7:8k (20_memory.md R55). -/
def blockBytes (b : Block) : List Byte := (List.range 8).map (fun k => b.extractLsb' (8 * k) 8)

/-- The 16 bytes of a BC5 block: BLOCK[0] and then BLOCK[1] (20_memory.md R55, 40_block_format.md R117). -/
def State.bc5Bytes (s : State) : List Byte := blockBytes s.block0 ++ blockBytes s.block1

/-- The 128 bits of a BC5 block, `{BLOCK[1], BLOCK[0]}` (40_block_format.md R117). -/
def State.bc5 (s : State) : BitVec 128 := (s.block1 ++ s.block0 : BitVec 128)

end Sys2Proof.Machine
end

