-- ==== Sys2Proof/Machine/BlockCmds.lean ====
section
/-! DEFINITION. The block accessors (40_block_format.md R109 to R116). Each reads BLOCK[SLOT] and either writes RESULT
(a GET) or BLOCK[SLOT] (a SET), or raises an error and changes nothing but STATUS. -/

namespace Sys2Proof.Machine

/-- `x[RESULT] <- v` and completion. -/
def State.finishResult (s : State) (v : Word) : State := { s with result := v }.complete

/-- `BLOCK[SLOT] <- b` and completion. -/
def State.finishBlock (s : State) (slot : Slot) (b : Block) : State := (s.setBlock slot b).complete

/-- Read an endpoint into RESULT (40_block_format.md R104). -/
def getEndpoint (ch : Channel) (slot : Slot) (ep : Ep) (s : State) : State :=
  s.finishResult (BitVec.ofInt 32 (epValue (s.block slot) ep ch))

/-- Write an endpoint from ARG3, or OUT_OF_RANGE (40_block_format.md R105). -/
def setEndpoint (ch : Channel) (slot : Slot) (ep : Ep) (s : State) : State :=
  if epWriteOk s.argInt3 ch then s.finishBlock slot (epWrite (s.block slot) ep ch s.argInt3)
  else s.raiseError .outOfRange

/-- Read index `i` into RESULT (40_block_format.md R106). -/
def getIndex (slot : Slot) (i : Nat) (s : State) : State := s.finishResult ((idxGet (s.block slot) i).setWidth 32)

/-- Write index `i` (40_block_format.md R107). -/
def setIndex (slot : Slot) (i v : Nat) (s : State) : State := s.finishBlock slot (idxSet (s.block slot) i v)

/-- `GET_EP.U` (40_block_format.md R109). -/
def execGetEpU (slot : Slot) (ep : Ep) (s : State) : Host.Outcome State Fault Refusal :=
  .next (getEndpoint .unsigned slot ep s)

/-- `GET_EP.S` (40_block_format.md R110). -/
def execGetEpS (slot : Slot) (ep : Ep) (s : State) : Host.Outcome State Fault Refusal :=
  .next (getEndpoint .signed slot ep s)

/-- `SET_EP.U` (40_block_format.md R111). -/
def execSetEpU (slot : Slot) (ep : Ep) (s : State) : Host.Outcome State Fault Refusal :=
  .next (setEndpoint .unsigned slot ep s)

/-- `SET_EP.S` (40_block_format.md R112). -/
def execSetEpS (slot : Slot) (ep : Ep) (s : State) : Host.Outcome State Fault Refusal :=
  .next (setEndpoint .signed slot ep s)

/-- `GET_IDX` (40_block_format.md R113). -/
def execGetIdx (slot : Slot) (s : State) : Host.Outcome State Fault Refusal :=
  if indexOk s.argInt0 then .next (getIndex slot s.argInt0.toNat s) else .next (s.raiseError .outOfRange)

/-- `SET_IDX` (40_block_format.md R114). -/
def execSetIdx (slot : Slot) (s : State) : Host.Outcome State Fault Refusal :=
  if indexOk s.argInt0 && slotOk s.argInt3 then .next (setIndex slot s.argInt0.toNat s.argInt3.toNat s)
  else .next (s.raiseError .outOfRange)

/-- `GET_IDX_XY` (40_block_format.md R115). -/
def execGetIdxXY (slot : Slot) (s : State) : Host.Outcome State Fault Refusal :=
  if coordOk s.argInt0 && coordOk s.argInt1 then .next (getIndex slot (coordIndex s.argInt0 s.argInt1) s)
  else .next (s.raiseError .outOfRange)

/-- `SET_IDX_XY` (40_block_format.md R116). -/
def execSetIdxXY (slot : Slot) (s : State) : Host.Outcome State Fault Refusal :=
  if coordOk s.argInt0 && coordOk s.argInt1 && slotOk s.argInt3 then
    .next (setIndex slot (coordIndex s.argInt0 s.argInt1) s.argInt3.toNat s)
  else .next (s.raiseError .outOfRange)

end Sys2Proof.Machine
end

