-- ==== Sys2Proof/Machine/Binary32.lean ====
section
/-! DEFINITION. IEEE 754 binary32 arithmetic on encodings (00_scope.md R10, R14): every operation is computed exactly
on integers and rounded once, to nearest with ties to even; subnormals are kept; nothing is fused. A finite value is
counted in units of 2^-149, the smallest subnormal, so that every finite value is an integer. -/

namespace Sys2Proof.Machine

/-- The sign bit (20_memory.md R56). -/
def fsign (a : Word) : Bool := a.getLsbD 31

/-- The exponent field, bits 30:23 (20_memory.md R56). -/
def fexp (a : Word) : Nat := a.toNat / 2 ^ 23 % 256

/-- The fraction field, bits 22:0 (20_memory.md R56). -/
def ffrac (a : Word) : Nat := a.toNat % 2 ^ 23

/-- A NaN: exponent all ones, fraction nonzero. -/
def fisNaN (a : Word) : Bool := fexp a == 255 && ffrac a != 0

/-- An infinity: exponent all ones, fraction zero. -/
def fisInf (a : Word) : Bool := fexp a == 255 && ffrac a == 0

/-- A finite value. -/
def fisFinite (a : Word) : Bool := fexp a != 255

/-- The magnitude of a value in units of 2^-149. An infinity gets 2^277, above every finite magnitude. -/
def fmag (a : Word) : Nat := if fexp a = 0 then ffrac a else (2 ^ 23 + ffrac a) * 2 ^ (fexp a - 1)

/-- The value in units of 2^-149; both zeros give 0. -/
def funits (a : Word) : Int := if fsign a then -(fmag a : Int) else (fmag a : Int)

/-- The sign and the 31 magnitude bits together. -/
def fpack (neg : Bool) (mag : Nat) : Word := BitVec.ofNat 32 (mag + if neg then 2 ^ 31 else 0)

/-- `num / den` rounded to an integer, to nearest with ties to even. -/
def roundNearestEven (num den : Nat) : Nat :=
  if den < 2 * (num % den) ∨ (den = 2 * (num % den) ∧ num / den % 2 = 1) then num / den + 1 else num / den

/-- The magnitude bits of `num / den` units of 2^-149, rounded to nearest with ties to even (00_scope.md R10): the
quotient is brought below 2^24 by a power of two 2^k, rounded to an integer, and encoded with exponent k. What rounds
past the largest finite value gives the infinity 0x7F800000. -/
def roundMag (num den : Nat) : Nat :=
  Nat.min 0x7F800000
    ((Nat.log2 (num / den) - 23) * 2 ^ 23 + roundNearestEven num (den * 2 ^ (Nat.log2 (num / den) - 23)))

/-- The quiet NaN of an invalid operation: its sign and payload are a free value (log 8). -/
def fnan (a b : Word) : Word :=
  ((Config.nanBits a b).extractLsb' 22 1 ++ (0x1FF#9 ++ (Config.nanBits a b).extractLsb' 0 22 : BitVec 31) : BitVec 32)

/-- The other sign. -/
def fneg (a : Word) : Word := a ^^^ 0x80000000

/-- `fabs` (00_scope.md R14): clears the sign. -/
def fabs (a : Word) : Word := a &&& 0x7FFFFFFF

/-- `fadd` (00_scope.md R14). An exact zero sum of operands that are not both negative zeros is +0 (log 21). -/
def fadd (a b : Word) : Word :=
  if fisNaN a || fisNaN b then fnan a b
  else if fisInf a then (if fisInf b && fsign a != fsign b then fnan a b else a)
  else if fisInf b then b
  else if funits a + funits b = 0 then fpack (fsign a && fsign b) 0
  else fpack (decide (funits a + funits b < 0)) (roundMag (funits a + funits b).natAbs 1)

/-- `fsub` (00_scope.md R14). -/
def fsub (a b : Word) : Word := fadd a (fneg b)

/-- `fmul` (00_scope.md R14). -/
def fmul (a b : Word) : Word :=
  if fisNaN a || fisNaN b then fnan a b
  else if fisInf a || fisInf b then
    (if fmag a == 0 || fmag b == 0 then fnan a b else fpack (fsign a != fsign b) 0x7F800000)
  else fpack (fsign a != fsign b) (roundMag (fmag a * fmag b) (2 ^ 149))

/-- `fdiv` (00_scope.md R14). -/
def fdiv (a b : Word) : Word :=
  if fisNaN a || fisNaN b then fnan a b
  else if fisInf a then (if fisInf b then fnan a b else fpack (fsign a != fsign b) 0x7F800000)
  else if fisInf b then fpack (fsign a != fsign b) 0
  else if fmag b = 0 then
    (if fmag a == 0 then fnan a b else fpack (fsign a != fsign b) 0x7F800000)
  else fpack (fsign a != fsign b) (roundMag (fmag a * 2 ^ 149) (fmag b))

/-- `a < b` (00_scope.md R14): false with a NaN, and the zeros are equal. -/
def flt (a b : Word) : Bool := !fisNaN a && !fisNaN b && decide (funits a < funits b)

/-- `a <= b` (00_scope.md R14). -/
def fle (a b : Word) : Bool := !fisNaN a && !fisNaN b && decide (funits a ≤ funits b)

/-- `a > b` (00_scope.md R14). -/
def fgt (a b : Word) : Bool := flt b a

/-- `a >= b` (00_scope.md R14). -/
def fge (a b : Word) : Bool := fle b a

/-- `a == b` (00_scope.md R14). -/
def feq (a b : Word) : Bool := !fisNaN a && !fisNaN b && decide (funits a = funits b)

/-- `f32(n)` (00_scope.md R14): exact for |n| ≤ 2^24. -/
def f32 (n : Int) : Word := fpack (decide (n < 0)) (roundMag (n.natAbs * 2 ^ 149) 1)

/-- `trunc_int(v)` (00_scope.md R14): the integer nearest `v` in the direction of zero, for finite `v` (log 9). -/
def truncInt (a : Word) : Int :=
  if fsign a then -((fmag a / 2 ^ 149 : Nat) : Int) else ((fmag a / 2 ^ 149 : Nat) : Int)

/-- `K(p/q)` (00_scope.md R14): the binary32 value nearest to `p/q`, for `p ≥ 0` and `q > 0`. -/
def fratio (p q : Nat) : Word := fpack false (roundMag (p * 2 ^ 149) q)

/-- 0.0 -/
def f0 : Word := 0x00000000
/-- 1.0 -/
def f1 : Word := 0x3F800000
/-- -1.0 -/
def fm1 : Word := 0xBF800000
/-- 0.5 -/
def fhalf : Word := 0x3F000000
/-- 2^-8, the range stop threshold (00_scope.md R8) -/
def f2m8 : Word := 0x3B800000
/-- 2^-6, the gradient stop threshold (00_scope.md R8) -/
def f2m6 : Word := 0x3C800000

end Sys2Proof.Machine
end

