-- ==== Sys2Proof/Machine/Palette.lean ====
section
/-! DEFINITION. The palette generator (41_palette.md R130 to R136), in integer and in normalized binary32 form. The
scheme is chosen on the remapped endpoint values (R130); the slots are those of R131. -/

namespace Sys2Proof.Machine

/-- The scheme of two endpoint values: 8-point when `a > b`, else 6-point (41_palette.md R130). -/
def schemeOf (a b : Int) : Scheme := if a > b then .eight else .six

/-- The low extreme of the integer palette (41_palette.md R133). -/
def intLo : Channel → Int
  | .unsigned => 0
  | .signed => -127

/-- The high extreme of the integer palette (41_palette.md R133), which is also the scale of the endpoints (R134). -/
def intHi : Channel → Int
  | .unsigned => 255
  | .signed => 127

/-- `PalInt` of two endpoint values (41_palette.md R132, R133); `div` truncates toward zero (00_scope.md R11). -/
def palIntOf (ch : Channel) (a b : Int) : List Int :=
  match schemeOf a b with
  | .eight => [a, b, Int.tdiv (a * 6 + b * 1) 7, Int.tdiv (a * 5 + b * 2) 7, Int.tdiv (a * 4 + b * 3) 7,
      Int.tdiv (a * 3 + b * 4) 7, Int.tdiv (a * 2 + b * 5) 7, Int.tdiv (a * 1 + b * 6) 7]
  | .six => [a, b, Int.tdiv (a * 4 + b * 1) 5, Int.tdiv (a * 3 + b * 2) 5, Int.tdiv (a * 2 + b * 3) 5,
      Int.tdiv (a * 1 + b * 4) 5, intLo ch, intHi ch]

/-- `PalInt(B, S)` (41_palette.md R130, R132, R133). -/
def palInt (b : Block) (ch : Channel) : List Int := palIntOf ch (epValue b .e0 ch) (epValue b .e1 ch)

/-- The normalized endpoint (41_palette.md R134). -/
def normEp (ch : Channel) (v : Int) : Word := fdiv (f32 v) (f32 (intHi ch))

/-- One interpolated entry: `fdiv(fadd(fmul(r0, f32(p)), fmul(r1, f32(q))), f32(d))` (41_palette.md R135, R136). -/
def palMix (r0 r1 : Word) (p q d : Int) : Word := fdiv (fadd (fmul r0 (f32 p)) (fmul r1 (f32 q))) (f32 d)

/-- The domain's low bound (42_encoder.md R161), which is also slot 6 of the 6-point float palette (41_palette.md R136). -/
def domLo : Channel → Word
  | .unsigned => f0
  | .signed => fm1

/-- The domain's high bound (42_encoder.md R161), which is also slot 7 of the 6-point float palette (41_palette.md R136). -/
def domHi : Word := f1

/-- The float palette of normalized endpoints under a scheme (41_palette.md R135, R136). -/
def palFMix (ch : Channel) (r0 r1 : Word) : Scheme → List Word
  | .eight => [r0, r1, palMix r0 r1 6 1 7, palMix r0 r1 5 2 7, palMix r0 r1 4 3 7, palMix r0 r1 3 4 7,
      palMix r0 r1 2 5 7, palMix r0 r1 1 6 7]
  | .six => [r0, r1, palMix r0 r1 4 1 5, palMix r0 r1 3 2 5, palMix r0 r1 2 3 5, palMix r0 r1 1 4 5, domLo ch, domHi]

/-- `PalF` of two endpoint values (41_palette.md R130, R134 to R136). -/
def palFOf (ch : Channel) (a b : Int) : List Word := palFMix ch (normEp ch a) (normEp ch b) (schemeOf a b)

/-- `PalF(B, S)` (41_palette.md R130, R134 to R136). -/
def palF (b : Block) (ch : Channel) : List Word := palFOf ch (epValue b .e0 ch) (epValue b .e1 ch)

/-- `sext_32` of an integer (00_scope.md R11). -/
def wordOfInt (v : Int) : Word := BitVec.ofInt 32 v

/-- The words of the integer palette, as RESULT and OUT take them (41_palette.md R138, R143). -/
def palIntWords (b : Block) (ch : Channel) : List Word := (palInt b ch).map wordOfInt

end Sys2Proof.Machine
end

