-- ==== Sys2Proof/Machine/Encoder.lean ====
section
/-! DEFINITION. The encoder pipeline on scratch state (42_encoder.md R160 to R181): each stage a function from scratch
to scratch, the Newton loop by recursion on its bound of 8 iterations. -/

namespace Sys2Proof.Machine

/-! ### LoadValues (R162) -/

/-- The address `a = start + y*rowPitch + x*colPitch` of a sample, a mathematical integer (42_encoder.md R162). -/
def gatherAddr (start rowPitch colPitch : Int) (y x : Nat) : Int := start + (y : Int) * rowPitch + (x : Int) * colPitch

/-- The 16 addresses in row-major order `y*4 + x` (42_encoder.md R162). -/
def gatherAddrs (start rowPitch colPitch : Int) : List Int :=
  (List.range 16).map (fun i => gatherAddr start rowPitch colPitch (i / 4) (i % 4))

/-- The condition of 42_encoder.md R162 that an address be inside the source buffer and inside SRC. -/
def srcAddrOk (s : State) (a : Int) : Bool :=
  decide (0 ≤ a) && decide (a < (s.operands.srcLen.toNat : Int)) &&
    decide ((s.operands.srcBase.toNat : Int) + a < (s.params.srcWords : Int))

/-- The sample at an address of the source buffer (42_encoder.md R162). -/
def sampleAt (s : State) (a : Int) : Word := s.srcRead (s.operands.srcBase.toNat + a.toNat)

/-- The addresses an ENCODE gathers (42_encoder.md R162). -/
def State.gatherList (s : State) : List Int := gatherAddrs s.argInt0 s.argInt1 s.argInt2

/-- LoadValues (42_encoder.md R162): the 16 samples, bit for bit, or none where an address is out of bounds. -/
def loadValues (s : State) : Option (List Word) :=
  if s.gatherList.all (srcAddrOk s) then some (s.gatherList.map (sampleAt s)) else none

/-! ### ScanMinMax (R163, R164) -/

/-- `Clamp` (42_encoder.md R163). -/
def clampTo (v lo hi : Word) : Word := if !(fge v lo) then lo else if fgt v hi then hi else v

/-- The least of a list, the first kept among equals (42_encoder.md R164). -/
def foldMin (m : Word) : List Word → Word
  | [] => m
  | p :: ps => foldMin (if flt p m then p else m) ps

/-- The greatest of a list, the first kept among equals (42_encoder.md R164). -/
def foldMax (m : Word) : List Word → Word
  | [] => m
  | p :: ps => foldMax (if fgt p m then p else m) ps

/-- ScanMinMax (42_encoder.md R164): clamp in place, then scan. -/
def scanMinMax (ch : Channel) (sc : Scratch) : Scratch :=
  let ss := sc.samples.map (fun v => clampTo v (domLo ch) domHi)
  { sc with samples := ss, min := foldMin (ss.headD 0) ss.tail, max := foldMax (ss.headD 0) ss.tail }

/-! ### Mode and initial bracket (R165 to R168) -/

/-- hasEndPoint and the mode (42_encoder.md R165, R166). -/
def chooseScheme (ch : Channel) (sc : Scratch) : Scratch :=
  let has := feq sc.min (domLo ch) || feq sc.max domHi
  { sc with has := has, n := if has then .six else .eight }

/-- `p` is not a domain extreme (42_encoder.md R168). -/
def isInner (ch : Channel) (p : Word) : Bool := fgt p (domLo ch) && flt p domHi

/-- The bracket of the 6-point mode over the inner samples (42_encoder.md R168). -/
def bracketSix (ch : Channel) (samples : List Word) : Word × Word :=
  let inner := samples.filter (isInner ch)
  if inner.isEmpty then (domHi, domHi) else (foldMin domHi inner, foldMax (domLo ch) inner)

/-- The initial bracket (42_encoder.md R167, R168). -/
def initialBracket (ch : Channel) (sc : Scratch) : Scratch :=
  match sc.n with
  | .eight => { sc with x := sc.min, y := sc.max }
  | .six => { sc with x := (bracketSix ch sc.samples).1, y := (bracketSix ch sc.samples).2 }

/-! ### Newton refinement (R169 to R176) -/

/-- numSteps (42_encoder.md R166). -/
def Scheme.numSteps : Scheme → Nat
  | .six => 6
  | .eight => 8

/-- `C_n` (42_encoder.md R170): the weights of the low endpoint. -/
def gridC : Scheme → List Word
  | .eight => [0x3F800000, 0x3F5B6DB7, 0x3F36DB6E, 0x3F124925, 0x3EDB6DB7, 0x3E924925, 0x3E124925, 0x00000000]
  | .six => [0x3F800000, 0x3F4CCCCD, 0x3F19999A, 0x3ECCCCCD, 0x3E4CCCCD, 0x00000000]

/-- `D_n` (42_encoder.md R170): the weights of the high endpoint. -/
def gridD : Scheme → List Word
  | .eight => [0x00000000, 0x3E124925, 0x3E924925, 0x3EDB6DB7, 0x3F124925, 0x3F36DB6E, 0x3F5B6DB7, 0x3F800000]
  | .six => [0x00000000, 0x3E4CCCCD, 0x3ECCCCCD, 0x3F19999A, 0x3F4CCCCD, 0x3F800000]

/-- `f32(n-1)` (42_encoder.md R171). -/
def lastStep (n : Scheme) : Word := f32 ((n.numSteps : Int) - 1)

/-- The grid (42_encoder.md R171): numSteps points between X and Y, and in 6-point mode the two extremes. -/
def gridSteps (ch : Channel) (n : Scheme) (x y : Word) : List Word :=
  (List.zipWith (fun c d => fadd (fmul c x) (fmul d y)) (gridC n) (gridD n)) ++
    match n with
    | .six => [domLo ch, domHi]
    | .eight => []

/-- `scale` (42_encoder.md R171). -/
def gridScale (n : Scheme) (x y : Word) : Word := fdiv (lastStep n) (fsub y x)

/-- A step from `dot` (42_encoder.md R172). -/
def stepOfDot (n : Scheme) (x y p dot : Word) : Nat :=
  if fle dot f0 then
    (if n == .six && fle p (fmul x fhalf) then 6 else 0)
  else if fge dot (lastStep n) then
    (if n == .six && fge p (fmul (fadd y f1) fhalf) then 7 else n.numSteps - 1)
  else (truncInt (fadd dot fhalf)).toNat

/-- Step assignment (42_encoder.md R172). -/
def assignStep (n : Scheme) (x y scale p : Word) : Nat := stepOfDot n x y p (fmul (fsub p x) scale)

/-- The gradients and curvatures of 42_encoder.md R173. -/
structure Sums where
  dX : Word
  dY : Word
  d2X : Word
  d2Y : Word
deriving DecidableEq, Repr

/-- The sums before the first sample (42_encoder.md R173). -/
def Sums.zero : Sums := ⟨f0, f0, f0, f0⟩

/-- One sample's part of the sums, at grid point weights `c`, `d` and difference `diff` (42_encoder.md R173). -/
def Sums.add (a : Sums) (c d diff : Word) : Sums where
  dX := fadd a.dX (fmul c diff)
  dY := fadd a.dY (fmul d diff)
  d2X := fadd a.d2X (fmul c c)
  d2Y := fadd a.d2Y (fmul d d)

/-- One sample of 42_encoder.md R173: a sample snapped to slot 6 or 7 in 6-point mode is skipped. -/
def accumulateOne (n : Scheme) (steps : List Word) (a : Sums) (k : Nat) (p : Word) : Sums :=
  if k < n.numSteps then a.add ((gridC n).getD k 0) ((gridD n).getD k 0) (fsub (steps.getD k 0) p) else a

/-- Accumulation (42_encoder.md R172, R173), in increasing order of the samples. -/
def accumulate (n : Scheme) (x y scale : Word) (steps : List Word) : Sums → List Word → Sums
  | a, [] => a
  | a, p :: ps => accumulate n x y scale steps (accumulateOne n steps a (assignStep n x y scale p) p) ps

/-- `v -= g / c` where the curvature `c` is strictly positive (42_encoder.md R174). -/
def newtonUpdate (v g c : Word) : Word := if fgt c f0 then fsub v (fdiv g c) else v

/-- The sums of one iteration (42_encoder.md R171 to R173). -/
def iterationSums (ch : Channel) (sc : Scratch) : Sums :=
  accumulate sc.n sc.x sc.y (gridScale sc.n sc.x sc.y) (gridSteps ch sc.n sc.x sc.y) Sums.zero sc.samples

/-- The loop body from given sums (42_encoder.md R171, R174, R175): grid, update, iteration count and swap. -/
def applySums (ch : Channel) (sc : Scratch) (a : Sums) : Scratch :=
  let x := newtonUpdate sc.x a.dX a.d2X
  let y := newtonUpdate sc.y a.dY a.d2Y
  { sc with
    steps := gridSteps ch sc.n sc.x sc.y
    iter := sc.iter + 1
    x := if fgt x y then y else x
    y := if fgt x y then x else y }

/-- The range stop (42_encoder.md R169). -/
def rangeStop (sc : Scratch) : Bool := flt (fsub sc.y sc.x) f2m8

/-- The gradient stop (42_encoder.md R176). -/
def gradientStop (a : Sums) : Bool := flt (fmul a.dX a.dX) f2m6 && flt (fmul a.dY a.dY) f2m6

/-- The Newton loop (42_encoder.md R169): the range stop before each body, the gradient stop after it. -/
def newtonLoop (ch : Channel) : Nat → Scratch → Scratch
  | 0, sc => sc
  | k + 1, sc =>
    if rangeStop sc then sc
    else if gradientStop (iterationSums ch sc) then applySums ch sc (iterationSums ch sc)
    else newtonLoop ch k (applySums ch sc (iterationSums ch sc))

/-- The iteration bound (00_scope.md R8). -/
def newtonBound : Nat := 8

/-! ### Clamp, order and quantization (R177 to R179) -/

/-- The clamp at the end of SpanValues (42_encoder.md R177). -/
def clampEnds (ch : Channel) (sc : Scratch) : Scratch :=
  { sc with x := clampTo sc.x (domLo ch) domHi, y := clampTo sc.y (domLo ch) domHi }

/-- `A`, which becomes endpoint0 (42_encoder.md R177). -/
def endA (sc : Scratch) : Word :=
  match sc.n with
  | .six => sc.x
  | .eight => sc.y

/-- `B`, which becomes endpoint1 (42_encoder.md R177). -/
def endB (sc : Scratch) : Word :=
  match sc.n with
  | .six => sc.y
  | .eight => sc.x

/-- `QuantU` (42_encoder.md R178). -/
def quantU (v : Word) : Int := truncInt (fmul v (f32 255))

/-- The scaled value with the sign-directional bias (42_encoder.md R179). -/
def biased (t : Word) : Word := if fge t f0 then fadd t fhalf else fsub t fhalf

/-- `QuantS` (42_encoder.md R179). -/
def quantS (v : Word) : Int := min 127 (max (-127) (truncInt (biased (fmul v (f32 127)))))

/-- The quantizer of a channel format (42_encoder.md R180). -/
def quant : Channel → Word → Int
  | .unsigned => quantU
  | .signed => quantS

/-- Endpoint quantization (42_encoder.md R178 to R180). -/
def quantize (ch : Channel) (sc : Scratch) : Scratch := { sc with e0 := quant ch (endA sc), e1 := quant ch (endB sc) }

/-! ### Palette and FindClosest (R180) -/

/-- The palette the stored endpoints imply at decode (42_encoder.md R180): `PalF` of a block with those bytes. -/
def buildPalette (ch : Channel) (sc : Scratch) : Scratch := { sc with pal := palF (pack sc.e0 sc.e1 []) ch }

/-- The distance of a sample from a palette entry (42_encoder.md R180). -/
def slotDist (entry p : Word) : Word := fabs (fsub entry p)

/-- The scan from slot `k` on, with the best slot so far and its distance (42_encoder.md R180): only a strictly
smaller distance replaces it. -/
def closestFrom (p : Word) : List Word → Nat → Nat → Word → Nat
  | [], _, best, _ => best
  | e :: es, k, best, bd =>
    if flt (slotDist e p) bd then closestFrom p es (k + 1) k (slotDist e p) else closestFrom p es (k + 1) best bd

/-- The nearest slot of a palette, the lowest among ties (42_encoder.md R180). -/
def closest (pal : List Word) (p : Word) : Nat := closestFrom p pal.tail 1 0 (slotDist (pal.headD 0) p)

/-- FindClosest (42_encoder.md R180). -/
def findClosest (sc : Scratch) : Scratch := { sc with idx := sc.samples.map (closest sc.pal) }

/-! ### The pipeline (R160) -/

/-- SpanValues (42_encoder.md R165 to R177): mode, bracket, refinement, clamp. -/
def spanValues (ch : Channel) (sc : Scratch) : Scratch :=
  clampEnds ch (newtonLoop ch newtonBound { initialBracket ch (chooseScheme ch sc) with iter := 0 })

/-- The stages after LoadValues, in the order of 42_encoder.md R160. -/
def encodeStages (ch : Channel) (sc : Scratch) : Scratch :=
  findClosest (buildPalette ch (quantize ch (spanValues ch (scanMinMax ch sc))))

/-- The block of an encode (42_encoder.md R181). -/
def encodedBlock (sc : Scratch) : Block := pack sc.e0 sc.e1 sc.idx

end Sys2Proof.Machine
end

