-- ==== Sys2Proof/Machine/EncodeCmds.lean ====
section
/-! DEFINITION. The ENCODE commands (42_encoder.md R182 to R184). -/

namespace Sys2Proof.Machine

/-- The scratch an ENCODE leaves: the gathered samples run through the stages (42_encoder.md R160). -/
def State.encodeScratch (s : State) (ch : Channel) (samples : List Word) : Scratch :=
  encodeStages ch { s.sc with samples := samples }

/-- The completion of a successful ENCODE (42_encoder.md R181, R182, R184): BLOCK[SLOT], ENC_INFO and the scratch. -/
def State.finishEncode (s : State) (ch : Channel) (slot : Slot) (sc : Scratch) : State :=
  { s.setBlock slot (encodedBlock sc) with
    sc := sc, encInfo := encInfoWord sc.iter (sc.n == Scheme.six) ch.bit }.complete

/-- An ENCODE (42_encoder.md R182, R183): MISSING_ARGUMENT before any sample is read; the fault where the gather is
out of bounds (R162); else the pipeline. -/
def encodeChannel (ch : Channel) (slot : Slot) (s : State) : Host.Outcome State Fault Refusal :=
  if srcValid s.operands.bufcfg then
    match loadValues s with
    | some samples => .next (s.finishEncode ch slot (s.encodeScratch ch samples))
    | none => .fault .undefinedSrcBounds
  else .next (s.raiseError .missingArgument)

/-- `ENCODE.U` (42_encoder.md R182). -/
def execEncodeU (slot : Slot) (s : State) : Host.Outcome State Fault Refusal := encodeChannel .unsigned slot s

/-- `ENCODE.S` (42_encoder.md R183). -/
def execEncodeS (slot : Slot) (s : State) : Host.Outcome State Fault Refusal := encodeChannel .signed slot s

end Sys2Proof.Machine
end

