-- ==== Sys2Proof/Machine/PaletteCmds.lean ====
section
/-! DEFINITION. The palette commands (41_palette.md R138 to R146). -/

namespace Sys2Proof.Machine

/-- Entry ARG0 of a palette into RESULT, or OUT_OF_RANGE (41_palette.md R138 to R141). -/
def getEntry (pal : List Word) (s : State) : State :=
  if slotOk s.argInt0 then s.finishResult (pal.getD s.argInt0.toNat 0) else s.raiseError .outOfRange

/-- `CheckDst` (41_palette.md R142), the checks in the order written: the error it raises, or none. -/
def checkDst (s : State) (off : Int) : ErrCode :=
  if dstValid s.operands.bufcfg = false then .missingArgument
  else if off < 0 ∨ (s.operands.dstLen.toNat : Int) - off < 8 then .outOfRange
  else if (s.operands.dstBase.toNat : Int) + off + 8 > (s.params.outWords : Int) then .outOfRange
  else .none

/-- The OUT index a GET_RVALUES writes first (41_palette.md R143). -/
def State.outIndex (s : State) : Nat := s.operands.dstBase.toNat + s.argInt0.toNat

/-- The palette into OUT, or the error of `CheckDst` (41_palette.md R143 to R146). -/
def writePalette (pal : List Word) (s : State) : State :=
  if checkDst s s.argInt0 = .none then (s.outWriteAll s.outIndex pal).complete
  else s.raiseError (checkDst s s.argInt0)

/-- `GET_R.U.I` (41_palette.md R138). -/
def execGetRUI (slot : Slot) (s : State) : Host.Outcome State Fault Refusal :=
  .next (getEntry (palIntWords (s.block slot) .unsigned) s)

/-- `GET_R.U.F` (41_palette.md R139). -/
def execGetRUF (slot : Slot) (s : State) : Host.Outcome State Fault Refusal :=
  .next (getEntry (palF (s.block slot) .unsigned) s)

/-- `GET_R.S.I` (41_palette.md R140). -/
def execGetRSI (slot : Slot) (s : State) : Host.Outcome State Fault Refusal :=
  .next (getEntry (palIntWords (s.block slot) .signed) s)

/-- `GET_R.S.F` (41_palette.md R141). -/
def execGetRSF (slot : Slot) (s : State) : Host.Outcome State Fault Refusal :=
  .next (getEntry (palF (s.block slot) .signed) s)

/-- `GET_RVALUES.U.I` (41_palette.md R143). -/
def execGetRValuesUI (slot : Slot) (s : State) : Host.Outcome State Fault Refusal :=
  .next (writePalette (palIntWords (s.block slot) .unsigned) s)

/-- `GET_RVALUES.U.F` (41_palette.md R144). -/
def execGetRValuesUF (slot : Slot) (s : State) : Host.Outcome State Fault Refusal :=
  .next (writePalette (palF (s.block slot) .unsigned) s)

/-- `GET_RVALUES.S.I` (41_palette.md R145). -/
def execGetRValuesSI (slot : Slot) (s : State) : Host.Outcome State Fault Refusal :=
  .next (writePalette (palIntWords (s.block slot) .signed) s)

/-- `GET_RVALUES.S.F` (41_palette.md R146). -/
def execGetRValuesSF (slot : Slot) (s : State) : Host.Outcome State Fault Refusal :=
  .next (writePalette (palF (s.block slot) .signed) s)

end Sys2Proof.Machine
end

