-- ==== Sys2Proof/Machine/Dispatch.lean ====
section
/-! DEFINITION. Which meaning each command has: one arm per constructor of Instr. -/

namespace Sys2Proof.Machine

/-- The meaning of a command at its completion (70_reset_and_hazards.md R256). -/
def exec (i : Instr) (s : State) : Host.Outcome State Fault Refusal :=
  match i with
  | .nop => Sys2Proof.Machine.execNop s
  | .encodeU slot => Sys2Proof.Machine.execEncodeU slot s
  | .encodeS slot => Sys2Proof.Machine.execEncodeS slot s
  | .getEpU slot ep => Sys2Proof.Machine.execGetEpU slot ep s
  | .getEpS slot ep => Sys2Proof.Machine.execGetEpS slot ep s
  | .setEpU slot ep => Sys2Proof.Machine.execSetEpU slot ep s
  | .setEpS slot ep => Sys2Proof.Machine.execSetEpS slot ep s
  | .getIdx slot => Sys2Proof.Machine.execGetIdx slot s
  | .setIdx slot => Sys2Proof.Machine.execSetIdx slot s
  | .getIdxXY slot => Sys2Proof.Machine.execGetIdxXY slot s
  | .setIdxXY slot => Sys2Proof.Machine.execSetIdxXY slot s
  | .getRUI slot => Sys2Proof.Machine.execGetRUI slot s
  | .getRUF slot => Sys2Proof.Machine.execGetRUF slot s
  | .getRSI slot => Sys2Proof.Machine.execGetRSI slot s
  | .getRSF slot => Sys2Proof.Machine.execGetRSF slot s
  | .getRValuesUI slot => Sys2Proof.Machine.execGetRValuesUI slot s
  | .getRValuesUF slot => Sys2Proof.Machine.execGetRValuesUF slot s
  | .getRValuesSI slot => Sys2Proof.Machine.execGetRValuesSI slot s
  | .getRValuesSF slot => Sys2Proof.Machine.execGetRValuesSF slot s

end Sys2Proof.Machine
end

