-- ==== Sys2Proof/Machine/Sequencer.lean ====
section
/-! DEFINITION. The core's own `Step`, the effect of each action of the environment (70_reset_and_hazards.md R263), and
the command word that the opcode table's bits stand for. -/

namespace Sys2Proof.Machine

/-- `Step` (70_reset_and_hazards.md R263): the core completes the command in execution, if any. An illegal word
completes with ILLEGAL_COMMAND (30_encoding.md R72). -/
def coreStep (s : State) : Host.Outcome State Fault Refusal :=
  match s.seq with
  | .idle => .next s
  | .busy w _ =>
    match decode w with
    | .ok i => exec i s
    | .error _ => .next (s.raiseError .illegalCommand)

/-- One action of the environment (70_reset_and_hazards.md R263). -/
def act (a : HostAction) (s : State) : Host.Outcome State Fault Refusal :=
  match a with
  | .read width addr => s.hostRead width addr
  | .write width addr v => s.hostWrite width addr v
  | .complete => coreStep s
  | .reset => .next s.resetEvent

/-- A list of actions in order, stopping at the first fault or refusal. -/
def actAll : List HostAction → State → Host.Outcome State Fault Refusal
  | [], s => .next s
  | a :: rest, s =>
    match act a s with
    | .next t => actAll rest t
    | .fault f => .fault f
    | .refused r => .refused r

/-- The word whose low `nbits` bits are those of `w` and whose other bits are 0. -/
def fetchWord (nbits w : Nat) : Word := BitVec.ofNat 32 (w % 2 ^ nbits)

end Sys2Proof.Machine
end

