-- ==== Sys2Proof/Machine/Step.lean ====
section
/-! DEFINITION. One step of the machine: the next action of the environment (70_reset_and_hazards.md R263), or, with
none to come, the core's own `Step`. -/

namespace Sys2Proof.Machine

/-- One step: the first action of the script, which leaves the script, or the core's `Step` when the script is empty
(log 1). -/
def step (s : State) : Host.Outcome State Fault Refusal :=
  match s.script with
  | [] => coreStep s
  | a :: rest => act a { s with script := rest }

/-- The state in which the next step runs the command word of the table's bits (log 2): the host's write of the word
to CMD has been made (10_state.md R25), and the next action is the core's completion. With an empty script that is
so; before other actions the completion is put first. -/
def State.withFetchWord (s : State) (nbits w : Nat) : State :=
  { s.issue (fetchWord nbits w) with
    script := match s.script with
      | [] => []
      | a :: rest => .complete :: a :: rest }

end Sys2Proof.Machine
end

