-- ==== Sys2Proof/Safety.lean ====
section
/-! DEFINITION. What counts as a good state and a safe run, and the frames of commands, in the terms the statements
use. -/

namespace Sys2Proof.Machine

/-! ### Good states -/

/-- STATUS as the rules let it be (10_state.md R26 to R30): reserved bits 0; ERR at most 3; BUSY exactly when the
sequencer is; while BUSY neither DONE nor an error; without BUSY and DONE, the reset value. -/
def statusGood (s : State) : Prop :=
  s.status &&& ~~~statusMask = 0 ∧ statusErr s.status ≤ 3 ∧
  (statusBusy s.status = true ↔ s.seq ≠ .idle) ∧
  (statusBusy s.status = true → statusDone s.status = false ∧ statusErr s.status = 0) ∧
  (statusBusy s.status = false → statusDone s.status = false → s.status = 0)

/-- ENC_INFO as the rules let it be (10_state.md R31): reserved bits 0; ITERS at most 8; 0 until an ENCODE has
completed without error. -/
def encInfoGood (s : State) : Prop :=
  s.encInfo &&& ~~~encInfoMask = 0 ∧ s.encInfo.toNat % 16 ≤ 8 ∧ (s.encInfo.getLsbD 6 = false → s.encInfo = 0)

/-- The snapshot equals the live registers (10_state.md R41: it "cannot differ"). -/
def snapshotGood (s : State) : Prop := s.operands = s.live

/-- A byte offset of an existing SRC or OUT word (20_memory.md R51). -/
def memOffset (p : Params) (a : Nat) : Bool :=
  (decide (0x1000 ≤ a) && decide (a < 0x1000 + 4 * p.srcWords)) ||
    (decide (0x2000 ≤ a) && decide (a < 0x2000 + 4 * p.outWords))

/-- Memory in canonical form, with bytes at existing words only. -/
def memGood (s : State) : Prop := Memory.wf s.mem ∧ ∀ c ∈ s.mem, memOffset s.params c.1 = true

/-- The scratch has the shape of 10_state.md R39. -/
def scratchGood (sc : Scratch) : Prop :=
  sc.samples.length = 16 ∧ sc.steps.length = 8 ∧ sc.pal.length = 8 ∧ sc.idx.length = 16 ∧
  (∀ v ∈ sc.idx, v < 8) ∧ sc.iter ≤ 8

/-- The invariant of the machine. -/
structure Inv (s : State) : Prop where
  params : s.params.wf = true
  status : statusGood s
  encInfo : encInfoGood s
  bufcfg : s.live.bufcfg &&& ~~~bufcfgMask = 0
  snapshot : snapshotGood s
  mem : memGood s
  scratch : scratchGood s.sc

/-! ### Safe runs -/

/-- The gather of an ENCODE stays inside the source buffer and inside SRC (42_encoder.md R162). -/
def gatherInBounds (s : State) : Prop :=
  ∀ y < 4, ∀ x < 4,
    0 ≤ gatherAddr s.argInt0 s.argInt1 s.argInt2 y x ∧
    gatherAddr s.argInt0 s.argInt1 s.argInt2 y x < (s.operands.srcLen.toNat : Int) ∧
    (s.operands.srcBase.toNat : Int) + gatherAddr s.argInt0 s.argInt1 s.argInt2 y x < (s.params.srcWords : Int)

/-- An action that cannot fault by itself: an access outside the window, or an aligned 32-bit one (20_memory.md R57). -/
def actionDefined (p : Params) : HostAction → Prop
  | .read width addr => touchesWindow p width addr = true → accessDefined p width addr = true
  | .write width addr _ => touchesWindow p width addr = true → accessDefined p width addr = true
  | .complete => True
  | .reset => True

/-! ### Runs of host accesses -/

/-- A host access, as against a completion or a reset. -/
def HostAction.isAccess : HostAction → Bool
  | .read _ _ => true
  | .write _ _ _ => true
  | .complete => false
  | .reset => false

/-! ### What the rules say a command answers -/

/-- The palette entry of slot `k` in integer form, as 41_palette.md R132 and R133 write it. -/
def slotInt (ch : Channel) (a b k : Int) : Int :=
  if k = 0 then a
  else if k = 1 then b
  else if a > b then Int.tdiv (a * (8 - k) + b * (k - 1)) 7
  else if k ≤ 5 then Int.tdiv (a * (6 - k) + b * (k - 1)) 5
  else if k = 6 then (if ch = .unsigned then 0 else -127)
  else (if ch = .unsigned then 255 else 127)

/-- The divisor `D` of 41_palette.md R134: 255.0 or 127.0. -/
def endpointScale (ch : Channel) : Word := if ch = .unsigned then 0x437F0000 else 0x42FE0000

/-- The palette entry of slot `k` in binary32 form, as 41_palette.md R134 to R136 write it; 0x40E00000 is 7.0 and
0x40A00000 is 5.0. -/
def slotFloat (ch : Channel) (a b k : Int) : Word :=
  let r0 := fdiv (f32 a) (endpointScale ch)
  let r1 := fdiv (f32 b) (endpointScale ch)
  if k = 0 then r0
  else if k = 1 then r1
  else if a > b then fdiv (fadd (fmul r0 (f32 (8 - k))) (fmul r1 (f32 (k - 1)))) 0x40E00000
  else if k ≤ 5 then fdiv (fadd (fmul r0 (f32 (6 - k))) (fmul r1 (f32 (k - 1)))) 0x40A00000
  else if k = 6 then (if ch = .unsigned then 0x00000000 else 0xBF800000)
  else 0x3F800000

/-- The checks of 41_palette.md R142 after the first: the offset, the capacity and the fit in OUT. -/
def outFits (s : State) : Bool :=
  decide (0 ≤ s.argInt0) && decide (8 ≤ (s.operands.dstLen.toNat : Int) - s.argInt0) &&
    decide ((s.operands.dstBase.toNat : Int) + s.argInt0 + 8 ≤ (s.params.outWords : Int))

/-- OUT_OF_RANGE unless the condition holds. -/
def rangeError (ok : Bool) : ErrCode := if ok then .none else .outOfRange

/-- The error of a GET_RVALUES (60_exceptions.md R223): the missing buffer first. -/
def outError (s : State) : ErrCode :=
  if s.operands.bufcfg.getLsbD 1 then rangeError (outFits s) else .missingArgument

/-- The error of an ENCODE (60_exceptions.md R223). -/
def srcError (s : State) : ErrCode := if s.operands.bufcfg.getLsbD 0 then .none else .missingArgument

/-- `lo <= v <= hi`, as a check. -/
def within (v lo hi : Int) : Bool := decide (lo ≤ v ∧ v ≤ hi)

/-- The table of 60_exceptions.md R223: the error each command ends with. -/
def commandError (i : Instr) (s : State) : ErrCode :=
  match i with
  | .nop => .none
  | .encodeU _ => srcError s
  | .encodeS _ => srcError s
  | .getEpU _ _ => .none
  | .getEpS _ _ => .none
  | .setEpU _ _ => rangeError (within s.argInt3 0 255)
  | .setEpS _ _ => rangeError (within s.argInt3 (-128) 127)
  | .getIdx _ => rangeError (within s.argInt0 0 15)
  | .setIdx _ => rangeError (within s.argInt0 0 15 && within s.argInt3 0 7)
  | .getIdxXY _ => rangeError (within s.argInt0 0 3 && within s.argInt1 0 3)
  | .setIdxXY _ => rangeError (within s.argInt0 0 3 && within s.argInt1 0 3 && within s.argInt3 0 7)
  | .getRUI _ => rangeError (within s.argInt0 0 7)
  | .getRUF _ => rangeError (within s.argInt0 0 7)
  | .getRSI _ => rangeError (within s.argInt0 0 7)
  | .getRSF _ => rangeError (within s.argInt0 0 7)
  | .getRValuesUI _ => outError s
  | .getRValuesUF _ => outError s
  | .getRValuesSI _ => outError s
  | .getRValuesSF _ => outError s

/-- The commands that write RESULT on success (10_state.md R33). -/
def writesResult (i : Instr) : Bool :=
  match i with
  | .getEpU _ _ => true
  | .getEpS _ _ => true
  | .getIdx _ => true
  | .getIdxXY _ => true
  | .getRUI _ => true
  | .getRUF _ => true
  | .getRSI _ => true
  | .getRSF _ => true
  | .nop => false
  | .encodeU _ => false
  | .encodeS _ => false
  | .setEpU _ _ => false
  | .setEpS _ _ => false
  | .setIdx _ => false
  | .setIdxXY _ => false
  | .getRValuesUI _ => false
  | .getRValuesUF _ => false
  | .getRValuesSI _ => false
  | .getRValuesSF _ => false

/-- The block register a command writes on success, if any (10_state.md R37). -/
def writesBlock (i : Instr) : Option Slot :=
  match i with
  | .encodeU sl => some sl
  | .encodeS sl => some sl
  | .setEpU sl _ => some sl
  | .setEpS sl _ => some sl
  | .setIdx sl => some sl
  | .setIdxXY sl => some sl
  | .nop => none
  | .getEpU _ _ => none
  | .getEpS _ _ => none
  | .getIdx _ => none
  | .getIdxXY _ => none
  | .getRUI _ => none
  | .getRUF _ => none
  | .getRSI _ => none
  | .getRSF _ => none
  | .getRValuesUI _ => none
  | .getRValuesUF _ => none
  | .getRValuesSI _ => none
  | .getRValuesSF _ => none

/-- The ENCODE commands. -/
def isEncode (i : Instr) : Bool :=
  match i with
  | .encodeU _ => true
  | .encodeS _ => true
  | .nop => false
  | .getEpU _ _ => false
  | .getEpS _ _ => false
  | .setEpU _ _ => false
  | .setEpS _ _ => false
  | .getIdx _ => false
  | .setIdx _ => false
  | .getIdxXY _ => false
  | .setIdxXY _ => false
  | .getRUI _ => false
  | .getRUF _ => false
  | .getRSI _ => false
  | .getRSF _ => false
  | .getRValuesUI _ => false
  | .getRValuesUF _ => false
  | .getRValuesSI _ => false
  | .getRValuesSF _ => false

/-- The GET_RVALUES commands, the only ones that write OUT (20_memory.md R53). -/
def writesOut (i : Instr) : Bool :=
  match i with
  | .getRValuesUI _ => true
  | .getRValuesUF _ => true
  | .getRValuesSI _ => true
  | .getRValuesSF _ => true
  | .nop => false
  | .encodeU _ => false
  | .encodeS _ => false
  | .getEpU _ _ => false
  | .getEpS _ _ => false
  | .setEpU _ _ => false
  | .setEpS _ _ => false
  | .getIdx _ => false
  | .setIdx _ => false
  | .getIdxXY _ => false
  | .setIdxXY _ => false
  | .getRUI _ => false
  | .getRUF _ => false
  | .getRSI _ => false
  | .getRSF _ => false

/-- The words of SRC an ENCODE gathers, in sample order (42_encoder.md R162). -/
def gatheredSamples (s : State) : List Word :=
  (List.range 16).map (fun i =>
    s.srcRead (s.operands.srcBase.toNat + (gatherAddr s.argInt0 s.argInt1 s.argInt2 (i / 4) (i % 4)).toNat))

/-- Two states that agree on what an ENCODE reads (42_encoder.md R188): ARG0 to ARG2, SRC_BASE, SRC_LEN, BUFCFG and
the SRC words, on cores with the same SRC_WORDS. -/
structure SameEncodeInputs (s t : State) : Prop where
  arg0 : t.operands.arg0 = s.operands.arg0
  arg1 : t.operands.arg1 = s.operands.arg1
  arg2 : t.operands.arg2 = s.operands.arg2
  srcBase : t.operands.srcBase = s.operands.srcBase
  srcLen : t.operands.srcLen = s.operands.srcLen
  bufcfg : t.operands.bufcfg = s.operands.bufcfg
  srcWords : t.params.srcWords = s.params.srcWords
  src : ∀ j < s.params.srcWords, t.srcRead j = s.srcRead j

/-- `dot` of 42_encoder.md R172, with the `scale` of R171; `last` is `f32(n-1)`. -/
def stepDot (last x y p : Word) : Word := fmul (fsub p x) (fdiv last (fsub y x))

/-- One turn of the loop of 42_encoder.md R173: the sample `p`, whose step is `k`, is added to the four sums, unless it is
snapped (`k >= n`). -/
def sumsTurn (n : Scheme) (x y : Word) (k : Nat) (a : Sums) (p : Word) : Sums :=
  if n.numSteps ≤ k then a
  else
    let c := (gridC n).getD k 0
    let d := (gridD n).getD k 0
    let diff := fsub (fadd (fmul c x) (fmul d y)) p
    { dX := fadd a.dX (fmul c diff), d2X := fadd a.d2X (fmul c c),
      dY := fadd a.dY (fmul d diff), d2Y := fadd a.d2Y (fmul d d) }

/-- The body of the Newton loop (42_encoder.md R171 to R175). -/
def newtonBody (ch : Channel) (sc : Scratch) : Scratch := applySums ch sc (iterationSums ch sc)

/-- The scratch as the Newton loop finds it (42_encoder.md R164 to R169). -/
def beforeNewton (ch : Channel) (sc : Scratch) : Scratch :=
  { initialBracket ch (chooseScheme ch (scanMinMax ch sc)) with iter := 0 }

/-! ### What a command leaves as it was -/

/-- Completion with a code (10_state.md R27 to R30, 70_reset_and_hazards.md R256): the sequencer is idle, BUSY is 0,
DONE is 1, ERR is the code, OVERRUN is as it was, and the reserved bits of STATUS are 0. -/
structure CompletedWith (c : ErrCode) (s t : State) : Prop where
  seq : t.seq = .idle
  busy : statusBusy t.status = false
  done : statusDone t.status = true
  err : statusErr t.status = c.code
  overrun : statusOverrun t.status = statusOverrun s.status
  reserved : t.status &&& ~~~statusMask = 0

/-- No command changes these: the parameters, the operand registers (43_control.md R202), and what is not the
core's. -/
structure KeepsOperands (s t : State) : Prop where
  params : t.params = s.params
  live : t.live = s.live
  epoch : t.epoch = s.epoch
  draws : t.draws = s.draws
  script : t.script = s.script
  readLog : t.readLog = s.readLog

/-- Every byte of SRC and OUT reads as it did. -/
def KeepsMemory (s t : State) : Prop := ∀ a, t.readByte a = s.readByte a

/-- Every byte outside `len` bytes from `start` reads as it did. -/
def KeepsMemoryOutside (start len : Nat) (s t : State) : Prop :=
  ∀ a, a < start ∨ start + len ≤ a → t.readByte a = s.readByte a

/-- The other block register. -/
def otherSlot : Slot → Slot
  | .b0 => .b1
  | .b1 => .b0

/-- Nothing but STATUS and the sequencer changed. -/
structure KeepsAll (s t : State) : Prop where
  operands : KeepsOperands s t
  result : t.result = s.result
  encInfo : t.encInfo = s.encInfo
  block : ∀ sl, t.block sl = s.block sl
  scratch : t.sc = s.sc
  memory : KeepsMemory s t

/-- Nothing but STATUS, the sequencer and RESULT changed. -/
structure KeepsAllButResult (s t : State) : Prop where
  operands : KeepsOperands s t
  encInfo : t.encInfo = s.encInfo
  block : ∀ sl, t.block sl = s.block sl
  scratch : t.sc = s.sc
  memory : KeepsMemory s t

/-- Nothing but STATUS, the sequencer and BLOCK[slot] changed. -/
structure KeepsAllButBlock (slot : Slot) (s t : State) : Prop where
  operands : KeepsOperands s t
  result : t.result = s.result
  encInfo : t.encInfo = s.encInfo
  block : t.block (otherSlot slot) = s.block (otherSlot slot)
  scratch : t.sc = s.sc
  memory : KeepsMemory s t

/-- Nothing but STATUS, the sequencer, BLOCK[slot], ENC_INFO and the scratch changed. -/
structure KeepsAllButEncode (slot : Slot) (s t : State) : Prop where
  operands : KeepsOperands s t
  result : t.result = s.result
  block : t.block (otherSlot slot) = s.block (otherSlot slot)
  memory : KeepsMemory s t

/-- Nothing but STATUS, the sequencer and the `len` bytes of OUT from `start` changed. -/
structure KeepsAllButOut (start len : Nat) (s t : State) : Prop where
  operands : KeepsOperands s t
  result : t.result = s.result
  encInfo : t.encInfo = s.encInfo
  block : ∀ sl, t.block sl = s.block sl
  scratch : t.sc = s.sc
  memory : KeepsMemoryOutside start len s t

/-- Two states that agree on all a command's result can show: all but OVERRUN, what the host's reads returned, and
the count of draws. -/
structure SameResults (s t : State) : Prop where
  params : t.params = s.params
  live : t.live = s.live
  busy : statusBusy t.status = statusBusy s.status
  done : statusDone t.status = statusDone s.status
  err : statusErr t.status = statusErr s.status
  encInfo : t.encInfo = s.encInfo
  result : t.result = s.result
  block0 : t.block0 = s.block0
  block1 : t.block1 = s.block1
  seq : t.seq = s.seq
  sc : t.sc = s.sc
  mem : t.mem = s.mem
  epoch : t.epoch = s.epoch

end Sys2Proof.Machine
end

