-- ==== Sys2Proof/Certificates/Slice0/Obligations.lean ====
section
/-! DEFINITION. The statements about the model, for the provers. Each docstring names the rule of spec/ it formalises.
`exec i s` is the completion of command `i` (70_reset_and_hazards.md R256). That a host access is the head of `script`,
leaves it when it is taken, and has its answer recorded in `readLog`, is the model's choice wherever it stands (log 1). -/

open Sys2Proof Sys2Proof.Machine

/-! ### Encoding -/

/-- 30_encoding.md R72, R74, R77: a word decodes to a command exactly when it is that command's word, so that every
command has one word, every legal word one command, and no bit is dropped. -/
def Obligations.DecodeEncodeInverse : Prop :=
  ∀ (w : Word) (i : Instr), decode w = .ok i ↔ (i.wf = true ∧ w = encode i)

/-- 30_encoding.md R72: which words are legal; what an illegal word does; and that decoding is by the rows' masks and
matches. -/
def Obligations.LegalWordsAndIllegalWords : Prop :=
  (∀ w : Word, (fieldsOf w).legal = true ↔ ∃ i, decode w = .ok i) ∧
  (∀ (w : Word) (i : Instr), decode w = .ok i →
    w &&& rowMask i = rowMatch i ∧
      ∀ j, w &&& rowMask j = rowMatch j → rowMatch j = rowMatch i ∧ rowMask j = rowMask i) ∧
  (∀ w : Word, (fieldsOf w).legal = false → ∀ j, w &&& rowMask j ≠ rowMatch j) ∧
  (∀ (s : State) (w : Word) (a : Args), s.seq = .busy w a → (fieldsOf w).legal = false →
    ∃ t, coreStep s = .next t ∧ CompletedWith .illegalCommand s t ∧ KeepsAll s t)

/-- 30_encoding.md R79: the words of the table and the illegal examples. -/
def Obligations.TableWordsDecode : Prop :=
  decode 0x00000000 = .ok .nop ∧
  decode 0x00000001 = .ok (.encodeU .b0) ∧ decode 0x00000041 = .ok (.encodeU .b1) ∧
  decode 0x00000011 = .ok (.encodeS .b0) ∧ decode 0x00000051 = .ok (.encodeS .b1) ∧
  decode 0x00000002 = .ok (.getEpU .b0 .e0) ∧ decode 0x00000082 = .ok (.getEpU .b0 .e1) ∧
  decode 0x00000012 = .ok (.getEpS .b0 .e0) ∧ decode 0x000000D2 = .ok (.getEpS .b1 .e1) ∧
  decode 0x00000003 = .ok (.setEpU .b0 .e0) ∧ decode 0x00000083 = .ok (.setEpU .b0 .e1) ∧
  decode 0x00000013 = .ok (.setEpS .b0 .e0) ∧ decode 0x00000093 = .ok (.setEpS .b0 .e1) ∧
  decode 0x00000004 = .ok (.getIdx .b0) ∧ decode 0x00000044 = .ok (.getIdx .b1) ∧
  decode 0x00000005 = .ok (.setIdx .b0) ∧ decode 0x00000045 = .ok (.setIdx .b1) ∧
  decode 0x00000006 = .ok (.getIdxXY .b0) ∧ decode 0x00000007 = .ok (.setIdxXY .b0) ∧
  decode 0x00000008 = .ok (.getRUI .b0) ∧ decode 0x00000028 = .ok (.getRUF .b0) ∧
  decode 0x00000018 = .ok (.getRSI .b0) ∧ decode 0x00000038 = .ok (.getRSF .b0) ∧
  decode 0x00000009 = .ok (.getRValuesUI .b0) ∧ decode 0x00000029 = .ok (.getRValuesUF .b0) ∧
  decode 0x00000019 = .ok (.getRValuesSI .b0) ∧ decode 0x00000039 = .ok (.getRValuesSF .b0) ∧
  decode 0x0000000A = .error .reservedOp ∧ decode 0x00000021 = .error .unusedModifier ∧
  decode 0x00000104 = .error .reservedBits ∧ decode 0x00000090 = .error .unusedModifier

/-! ### Steps -/

/-- A step runs the decoded command (10_state.md R25, R41; 70_reset_and_hazards.md R263). That an empty script stands
for R263's `Step`, and that an action leaves the script when it is taken, is the model's choice (log 1). -/
def Obligations.StepRunsDecodedCommand : Prop :=
  (∀ (s : State) (w : Word) (a : Args) (i : Instr),
    s.seq = .busy w a → decode w = .ok i → s.script = [] → step s = exec i s) ∧
  (∀ (s : State) (w : Word) (a : Args) (i : Instr) (rest : List HostAction),
    s.seq = .busy w a → decode w = .ok i → s.script = .complete :: rest →
      step s = exec i { s with script := rest }) ∧
  (∀ s : State, s.seq = .idle → s.script = [] → step s = .next s)

/-- 10_state.md R25: a write to CMD with BUSY = 0 issues, whatever the host does next; where the completion comes next
(of itself, or as the next action: log 1) it runs the word as it decodes. -/
def Obligations.CmdWriteIssues : Prop :=
  ∀ (s : State) (v : Word) (rest : List HostAction),
    statusBusy s.status = false →
    s.script = .write .w32 (s.params.coreBase + 0x04) v :: rest →
    ∃ t, step s = .next t ∧
      statusBusy t.status = true ∧ statusDone t.status = false ∧ statusOverrun t.status = false ∧
      statusErr t.status = 0 ∧ t.seq = .busy v s.live ∧
      t = { s with status := t.status, seq := t.seq, script := rest } ∧
      ∀ i, decode v = .ok i →
        (rest = [] → step t = exec i t) ∧
        ∀ later, rest = .complete :: later → step t = exec i { t with script := later }

/-- 70_reset_and_hazards.md R257: every aligned 32-bit write to the window while BUSY changes nothing but OVERRUN. -/
def Obligations.WritesWhileBusyOnlySetOverrun : Prop :=
  ∀ (s : State) (o : Nat) (v : Word) (rest : List HostAction),
    statusBusy s.status = true → o < 0x3000 → o % 4 = 0 →
    s.script = .write .w32 (s.params.coreBase + o) v :: rest →
    ∃ t, step s = .next t ∧ statusOverrun t.status = true ∧
      (∀ n, n ≠ 2 → t.status.getLsbD n = s.status.getLsbD n) ∧
      t = { s with status := t.status, script := rest }

/-- 70_reset_and_hazards.md R258: while BUSY, reads of ID, STATUS, the operand registers, SRC, CMD and the reserved
offsets return their current values; a read of RESULT, ENC_INFO, a BLOCK register or an OUT word returns some value,
whatever it is; and no read changes any state of the core. -/
def Obligations.ReadsWhileBusy : Prop :=
  ∀ (s : State) (rest : List HostAction), Inv s → statusBusy s.status = true →
    (∀ c ∈ [(0x00, (0x42433435 : Word)), (0x04, 0), (0x08, s.status), (0x10, s.live.arg0), (0x14, s.live.arg1),
        (0x18, s.live.arg2), (0x1C, s.live.arg3), (0x24, s.live.bufcfg), (0x28, s.live.srcBase),
        (0x2C, s.live.srcLen), (0x30, s.live.dstBase), (0x34, s.live.dstLen), (0x38, 0), (0x3C, 0)],
      s.script = .read .w32 (s.params.coreBase + c.1) :: rest →
        step s = .next { s with script := rest, readLog := (s.params.coreBase + c.1, c.2) :: s.readLog }) ∧
    (∀ j < s.params.srcWords, s.script = .read .w32 (s.params.coreBase + 0x1000 + 4 * j) :: rest →
      step s = .next { s with
        script := rest, readLog := (s.params.coreBase + 0x1000 + 4 * j, s.srcRead j) :: s.readLog }) ∧
    (∀ o : Nat, (o ∈ [0x0C, 0x20, 0x40, 0x44, 0x48, 0x4C] ∨ ∃ j < s.params.outWords, o = 0x2000 + 4 * j) →
      s.script = .read .w32 (s.params.coreBase + o) :: rest →
      ∃ (v : Word) (n : Nat), step s = .next
        { s with script := rest, readLog := (s.params.coreBase + o, v) :: s.readLog, draws := n }) ∧
    (∀ (o : Nat), o % 4 = 0 → ((0x50 ≤ o ∧ o < 0x1000) ∨ (0x1000 + 4 * s.params.srcWords ≤ o ∧ o < 0x2000) ∨
        (0x2000 + 4 * s.params.outWords ≤ o ∧ o < 0x3000)) →
      s.script = .read .w32 (s.params.coreBase + o) :: rest →
        step s = .next { s with script := rest, readLog := (s.params.coreBase + o, 0) :: s.readLog })

/-- 10_state.md R22 to R37, R23: what each register and each word reads as when no command is in execution. -/
def Obligations.ReadsWhenIdle : Prop :=
  ∀ (s : State) (rest : List HostAction), Inv s → statusBusy s.status = false →
    (∀ c ∈ [(0x00, (0x42433435 : Word)), (0x04, 0), (0x08, s.status), (0x0C, s.encInfo), (0x10, s.live.arg0),
        (0x14, s.live.arg1), (0x18, s.live.arg2), (0x1C, s.live.arg3), (0x20, s.result), (0x24, s.live.bufcfg),
        (0x28, s.live.srcBase), (0x2C, s.live.srcLen), (0x30, s.live.dstBase), (0x34, s.live.dstLen),
        (0x40, s.block0.extractLsb' 0 32), (0x44, s.block0.extractLsb' 32 32),
        (0x48, s.block1.extractLsb' 0 32), (0x4C, s.block1.extractLsb' 32 32)],
      s.script = .read .w32 (s.params.coreBase + c.1) :: rest →
        step s = .next { s with script := rest, readLog := (s.params.coreBase + c.1, c.2) :: s.readLog }) ∧
    (∀ j < s.params.srcWords, s.script = .read .w32 (s.params.coreBase + 0x1000 + 4 * j) :: rest →
      step s = .next { s with
        script := rest, readLog := (s.params.coreBase + 0x1000 + 4 * j, s.readWord (0x1000 + 4 * j)) :: s.readLog }) ∧
    (∀ j < s.params.outWords, s.script = .read .w32 (s.params.coreBase + 0x2000 + 4 * j) :: rest →
      step s = .next { s with
        script := rest, readLog := (s.params.coreBase + 0x2000 + 4 * j, s.readWord (0x2000 + 4 * j)) :: s.readLog })

/-- 10_state.md R22, R23, R32 to R37: what a write to each register does when no command is in execution (CMD, which
issues, apart). -/
def Obligations.RegisterWritesWhenIdle : Prop :=
  ∀ (s : State) (v : Word) (rest : List HostAction), statusBusy s.status = false →
    ∀ c ∈ [(0x00, s), (0x08, s), (0x0C, s), (0x20, s),
        (0x10, { s with live := { s.live with arg0 := v } }), (0x14, { s with live := { s.live with arg1 := v } }),
        (0x18, { s with live := { s.live with arg2 := v } }), (0x1C, { s with live := { s.live with arg3 := v } }),
        (0x24, { s with live := { s.live with bufcfg := v &&& 0x00000003 } }),
        (0x28, { s with live := { s.live with srcBase := v } }), (0x2C, { s with live := { s.live with srcLen := v } }),
        (0x30, { s with live := { s.live with dstBase := v } }), (0x34, { s with live := { s.live with dstLen := v } }),
        (0x40, { s with block0 := (s.block0.extractLsb' 32 32 ++ v : BitVec 64) }),
        (0x44, { s with block0 := (v ++ s.block0.extractLsb' 0 32 : BitVec 64) }),
        (0x48, { s with block1 := (s.block1.extractLsb' 32 32 ++ v : BitVec 64) }),
        (0x4C, { s with block1 := (v ++ s.block1.extractLsb' 0 32 : BitVec 64) })],
      s.script = .write .w32 (s.params.coreBase + c.1) v :: rest → step s = .next { c.2 with script := rest }

/-- 20_memory.md R52, R53, R54: a host write to a word of SRC or OUT with no command in execution stores its four
bytes, the least significant at the lowest address, and nothing else changes. That the memory stays canonical
(`Memory.wf`) is about the form the model gives it (log 4). -/
def Obligations.MemoryWritesWhenIdle : Prop :=
  ∀ (s : State) (o : Nat) (v : Word) (rest : List HostAction), s.params.wf = true → statusBusy s.status = false →
    ((∃ j < s.params.srcWords, o = 0x1000 + 4 * j) ∨ (∃ j < s.params.outWords, o = 0x2000 + 4 * j)) →
    s.script = .write .w32 (s.params.coreBase + o) v :: rest →
    ∃ t, step s = .next t ∧ t.readWord o = v ∧
      (∀ k < 4, t.readByte (o + k) = v.extractLsb' (8 * k) 8) ∧
      KeepsMemoryOutside o 4 s t ∧ (Memory.wf s.mem → Memory.wf t.mem) ∧ t = { s with mem := t.mem, script := rest }

/-- 20_memory.md R58: reserved offsets read 0 and ignore writes (while BUSY a write sets OVERRUN, by R257); an access
at offset 0x3000 or beyond does not reach the core. -/
def Obligations.ReservedAndOutsideOffsets : Prop :=
  (∀ (s : State) (o : Nat) (v : Word) (rest : List HostAction), o % 4 = 0 →
    (o = 0x38 ∨ o = 0x3C ∨ (0x50 ≤ o ∧ o < 0x1000) ∨ (0x1000 + 4 * s.params.srcWords ≤ o ∧ o < 0x2000) ∨
      (0x2000 + 4 * s.params.outWords ≤ o ∧ o < 0x3000)) →
    (s.script = .read .w32 (s.params.coreBase + o) :: rest →
      step s = .next { s with script := rest, readLog := (s.params.coreBase + o, 0) :: s.readLog }) ∧
    (statusBusy s.status = false → s.script = .write .w32 (s.params.coreBase + o) v :: rest →
      step s = .next { s with script := rest })) ∧
  (∀ (s : State) (width : BusWidth) (o : Nat) (v : Word) (rest : List HostAction), 0x3000 ≤ o →
    (s.script = .read width (s.params.coreBase + o) :: rest ∨ s.script = .write width (s.params.coreBase + o) v :: rest) →
    step s = .next { s with script := rest })

/-- 60_exceptions.md R228: the two faults, and exactly when; and no step refuses. That an undefined access faults while
BUSY too, R57 coming before R257, is DEDUCED (log 15), as is what an access at the window's ends is (log 13). -/
def Obligations.FaultsExactlyWhenUndefined : Prop :=
  (∀ (i : Instr) (s : State), exec i s = .fault .undefinedSrcBounds ↔
    (isEncode i = true ∧ s.operands.bufcfg.getLsbD 0 = true ∧ ¬ gatherInBounds s)) ∧
  (∀ (i : Instr) (s : State), exec i s ≠ .fault .undefinedBusAccess) ∧
  (∀ (s : State) (width : BusWidth) (addr : Nat) (v : Word),
    s.params.coreBase ≤ addr → addr < s.params.coreBase + 0x3000 →
    (s.hostRead width addr = .fault .undefinedBusAccess ↔ (width ≠ .w32 ∨ (addr - s.params.coreBase) % 4 ≠ 0)) ∧
    (s.hostWrite width addr v = .fault .undefinedBusAccess ↔ (width ≠ .w32 ∨ (addr - s.params.coreBase) % 4 ≠ 0)) ∧
    s.hostRead width addr ≠ .fault .undefinedSrcBounds ∧ s.hostWrite width addr v ≠ .fault .undefinedSrcBounds) ∧
  (∀ (s : State) (r : Refusal), step s ≠ .refused r)

/-- A step answers a next state unless a rule calls the case undefined: where the next action is a completion, a reset,
an aligned 32-bit access or an access outside the window (20_memory.md R57, R58), and an ENCODE in execution gathers
inside its buffer (42_encoder.md R162), the step completes. -/
def Obligations.StepCompletesUnlessUndefined : Prop :=
  ∀ s : State, (∀ a rest, s.script = a :: rest → actionDefined s.params a) →
    (∀ w a i, s.seq = .busy w a → decode w = .ok i → isEncode i = true → s.operands.bufcfg.getLsbD 0 = true →
      gatherInBounds s) →
    ∃ t, step s = .next t

/-- 70_reset_and_hazards.md R250, R251: reset in any state gives every register its reset value, makes the core idle,
abandons the command in execution, and leaves no byte of SRC or OUT written (the form the model gives "unspecified", log
4; what a reset keeps of the environment's fields is log 16); `State.reset` has the same values. -/
def Obligations.ResetGivesResetValues : Prop :=
  (∀ (s : State) (rest : List HostAction), s.script = .reset :: rest →
    ∃ t, step s = .next t ∧ t.regRead .id = 0x42433435 ∧ t.status = 0 ∧ t.encInfo = 0 ∧
      t.live.arg0 = 0 ∧ t.live.arg1 = 0 ∧ t.live.arg2 = 0 ∧ t.live.arg3 = 0 ∧ t.result = 0 ∧ t.live.bufcfg = 0 ∧
      t.live.srcBase = 0 ∧ t.live.srcLen = 0 ∧ t.live.dstBase = 0 ∧ t.live.dstLen = 0 ∧
      t.block0 = 0 ∧ t.block1 = 0 ∧ t.seq = .idle ∧ (∀ a, t.mem.readByte? a = none) ∧
      t.params = s.params ∧ t.script = rest ∧ t.readLog = s.readLog) ∧
  State.reset.regRead .id = 0x42433435 ∧ State.reset.status = 0 ∧ State.reset.encInfo = 0 ∧
  State.reset.live.arg0 = 0 ∧ State.reset.live.arg1 = 0 ∧ State.reset.live.arg2 = 0 ∧ State.reset.live.arg3 = 0 ∧
  State.reset.result = 0 ∧ State.reset.live.bufcfg = 0 ∧ State.reset.live.srcBase = 0 ∧ State.reset.live.srcLen = 0 ∧
  State.reset.live.dstBase = 0 ∧ State.reset.live.dstLen = 0 ∧ State.reset.block0 = 0 ∧ State.reset.block1 = 0 ∧
  State.reset.seq = .idle ∧ (∀ a, State.reset.mem.readByte? a = none) ∧
  (∀ (ep : Ep) (ch : Channel), epValue (0 : Block) ep ch = 0) ∧ (∀ i < 16, idxGet (0 : Block) i = 0)

/-! ### The control command -/

/-- 43_control.md R200: NOP completes with ERR = NONE and has no other effect; issued, it clears OVERRUN and ERR. -/
def Obligations.NopOnlyCompletes : Prop :=
  decode 0x00000000 = .ok .nop ∧
  (∀ w : Word, w ≠ 0 → w.extractLsb' 0 4 = 0 → ∃ e, decode w = .error e) ∧
  (∀ s : State, ∃ t, exec .nop s = .next t ∧ CompletedWith .none s t ∧ KeepsAll s t) ∧
  (∀ s : State, ∃ t, exec .nop (s.issue 0x00000000) = .next t ∧ t.status = 0x00000002)

/-! ### The block commands -/

/-- 40_block_format.md R109: GET_EP.U. -/
def Obligations.GetEpUnsigned : Prop :=
  ∀ (s : State) (slot : Slot) (ep : Ep),
    encode (.getEpU slot ep) = BitVec.ofNat 32 (0x2 + 64 * slot.bit.toNat + 128 * ep.bit.toNat) ∧
    ∃ t, exec (.getEpU slot ep) s = .next t ∧
      t.result.toNat = (s.block slot).toNat / 2 ^ (8 * ep.bit.toNat) % 256 ∧
      CompletedWith .none s t ∧ KeepsAllButResult s t

/-- 40_block_format.md R110: GET_EP.S, with -128 read as -127. -/
def Obligations.GetEpSigned : Prop :=
  ∀ (s : State) (slot : Slot) (ep : Ep),
    encode (.getEpS slot ep) = BitVec.ofNat 32 (0x12 + 64 * slot.bit.toNat + 128 * ep.bit.toNat) ∧
    ∃ t, exec (.getEpS slot ep) s = .next t ∧
      t.result.toInt =
        (if ((s.block slot).extractLsb' (8 * ep.bit.toNat) 8).toInt = -128 then -127
         else ((s.block slot).extractLsb' (8 * ep.bit.toNat) 8).toInt) ∧
      t.result.toInt ≠ -128 ∧
      CompletedWith .none s t ∧ KeepsAllButResult s t

/-- 40_block_format.md R111: SET_EP.U. -/
def Obligations.SetEpUnsigned : Prop :=
  ∀ (s : State) (slot : Slot) (ep : Ep),
    encode (.setEpU slot ep) = BitVec.ofNat 32 (0x3 + 64 * slot.bit.toNat + 128 * ep.bit.toNat) ∧
    (0 ≤ s.argInt3 → s.argInt3 ≤ 255 →
      ∃ t, exec (.setEpU slot ep) s = .next t ∧
        ((t.block slot).extractLsb' (8 * ep.bit.toNat) 8).toNat = s.argInt3.toNat ∧
        (∀ n, n < 8 * ep.bit.toNat ∨ 8 * ep.bit.toNat + 8 ≤ n → (t.block slot).getLsbD n = (s.block slot).getLsbD n) ∧
        CompletedWith .none s t ∧ KeepsAllButBlock slot s t) ∧
    (s.argInt3 < 0 ∨ 255 < s.argInt3 →
      ∃ t, exec (.setEpU slot ep) s = .next t ∧ CompletedWith .outOfRange s t ∧ KeepsAll s t)

/-- 40_block_format.md R112: SET_EP.S, with -128 stored as -127. -/
def Obligations.SetEpSigned : Prop :=
  ∀ (s : State) (slot : Slot) (ep : Ep),
    encode (.setEpS slot ep) = BitVec.ofNat 32 (0x13 + 64 * slot.bit.toNat + 128 * ep.bit.toNat) ∧
    (-128 ≤ s.argInt3 → s.argInt3 ≤ 127 →
      ∃ t, exec (.setEpS slot ep) s = .next t ∧
        ((t.block slot).extractLsb' (8 * ep.bit.toNat) 8).toInt = (if s.argInt3 = -128 then -127 else s.argInt3) ∧
        (∀ n, n < 8 * ep.bit.toNat ∨ 8 * ep.bit.toNat + 8 ≤ n → (t.block slot).getLsbD n = (s.block slot).getLsbD n) ∧
        CompletedWith .none s t ∧ KeepsAllButBlock slot s t) ∧
    (s.argInt3 < -128 ∨ 127 < s.argInt3 →
      ∃ t, exec (.setEpS slot ep) s = .next t ∧ CompletedWith .outOfRange s t ∧ KeepsAll s t)

/-- 40_block_format.md R113: GET_IDX. -/
def Obligations.GetIndex : Prop :=
  ∀ (s : State) (slot : Slot),
    encode (.getIdx slot) = BitVec.ofNat 32 (0x4 + 64 * slot.bit.toNat) ∧
    (0 ≤ s.argInt0 → s.argInt0 ≤ 15 →
      ∃ t, exec (.getIdx slot) s = .next t ∧
        t.result.toNat = (s.block slot).toNat / 2 ^ (16 + 3 * s.argInt0.toNat) % 8 ∧
        CompletedWith .none s t ∧ KeepsAllButResult s t) ∧
    (s.argInt0 < 0 ∨ 15 < s.argInt0 →
      ∃ t, exec (.getIdx slot) s = .next t ∧ CompletedWith .outOfRange s t ∧ KeepsAll s t)

/-- 40_block_format.md R114: SET_IDX. -/
def Obligations.SetIndex : Prop :=
  ∀ (s : State) (slot : Slot),
    encode (.setIdx slot) = BitVec.ofNat 32 (0x5 + 64 * slot.bit.toNat) ∧
    (0 ≤ s.argInt0 → s.argInt0 ≤ 15 → 0 ≤ s.argInt3 → s.argInt3 ≤ 7 →
      ∃ t, exec (.setIdx slot) s = .next t ∧
        ((t.block slot).extractLsb' (16 + 3 * s.argInt0.toNat) 3).toNat = s.argInt3.toNat ∧
        (∀ n, n < 16 + 3 * s.argInt0.toNat ∨ 16 + 3 * s.argInt0.toNat + 3 ≤ n →
          (t.block slot).getLsbD n = (s.block slot).getLsbD n) ∧
        CompletedWith .none s t ∧ KeepsAllButBlock slot s t) ∧
    (s.argInt0 < 0 ∨ 15 < s.argInt0 ∨ s.argInt3 < 0 ∨ 7 < s.argInt3 →
      ∃ t, exec (.setIdx slot) s = .next t ∧ CompletedWith .outOfRange s t ∧ KeepsAll s t)

/-- 40_block_format.md R115, R108: GET_IDX_XY reads index 4y + x. -/
def Obligations.GetIndexXY : Prop :=
  ∀ (s : State) (slot : Slot),
    encode (.getIdxXY slot) = BitVec.ofNat 32 (0x6 + 64 * slot.bit.toNat) ∧
    (0 ≤ s.argInt0 → s.argInt0 ≤ 3 → 0 ≤ s.argInt1 → s.argInt1 ≤ 3 →
      ∃ t, exec (.getIdxXY slot) s = .next t ∧
        t.result.toNat = (s.block slot).toNat / 2 ^ (16 + 3 * (4 * s.argInt1.toNat + s.argInt0.toNat)) % 8 ∧
        CompletedWith .none s t ∧ KeepsAllButResult s t) ∧
    (s.argInt0 < 0 ∨ 3 < s.argInt0 ∨ s.argInt1 < 0 ∨ 3 < s.argInt1 →
      ∃ t, exec (.getIdxXY slot) s = .next t ∧ CompletedWith .outOfRange s t ∧ KeepsAll s t)

/-- 40_block_format.md R116, R108: SET_IDX_XY writes index 4y + x. -/
def Obligations.SetIndexXY : Prop :=
  ∀ (s : State) (slot : Slot),
    encode (.setIdxXY slot) = BitVec.ofNat 32 (0x7 + 64 * slot.bit.toNat) ∧
    (0 ≤ s.argInt0 → s.argInt0 ≤ 3 → 0 ≤ s.argInt1 → s.argInt1 ≤ 3 → 0 ≤ s.argInt3 → s.argInt3 ≤ 7 →
      ∃ t, exec (.setIdxXY slot) s = .next t ∧
        ((t.block slot).extractLsb' (16 + 3 * (4 * s.argInt1.toNat + s.argInt0.toNat)) 3).toNat = s.argInt3.toNat ∧
        (∀ n, n < 16 + 3 * (4 * s.argInt1.toNat + s.argInt0.toNat) ∨
            16 + 3 * (4 * s.argInt1.toNat + s.argInt0.toNat) + 3 ≤ n →
          (t.block slot).getLsbD n = (s.block slot).getLsbD n) ∧
        CompletedWith .none s t ∧ KeepsAllButBlock slot s t) ∧
    (s.argInt0 < 0 ∨ 3 < s.argInt0 ∨ s.argInt1 < 0 ∨ 3 < s.argInt1 ∨ s.argInt3 < 0 ∨ 7 < s.argInt3 →
      ∃ t, exec (.setIdxXY slot) s = .next t ∧ CompletedWith .outOfRange s t ∧ KeepsAll s t)

/-- 20_memory.md R55, 40_block_format.md R117: a BC5 block is the 8 bytes of BLOCK[0] and then those of BLOCK[1], byte k
of a block being its bits 8k+7:8k; BLOCKs_LO holds bytes 0 to 3 and BLOCKs_HI bytes 4 to 7. -/
def Obligations.BlockBytesLittleEndian : Prop :=
  ∀ s : State, s.bc5Bytes.length = 16 ∧
    (∀ k < 8, s.bc5Bytes.getD k 0 = s.block0.extractLsb' (8 * k) 8) ∧
    (∀ k < 8, s.bc5Bytes.getD (8 + k) 0 = s.block1.extractLsb' (8 * k) 8) ∧
    (∀ k < 16, s.bc5Bytes.getD k 0 = s.bc5.extractLsb' (8 * k) 8) ∧
    (∀ slot, (blockBytes (s.block slot)).getD 0 0 = epRaw (s.block slot) .e0 ∧
      (blockBytes (s.block slot)).getD 1 0 = epRaw (s.block slot) .e1 ∧
      ∀ i < 48, (s.block slot).getLsbD (16 + i) = ((blockBytes (s.block slot)).getD (2 + i / 8) 0).getLsbD (i % 8)) ∧
    (∀ k < 4, s.bc5Bytes.getD k 0 = byteOf (s.regRead .block0Lo) k ∧
      s.bc5Bytes.getD (4 + k) 0 = byteOf (s.regRead .block0Hi) k ∧
      s.bc5Bytes.getD (8 + k) 0 = byteOf (s.regRead .block1Lo) k ∧
      s.bc5Bytes.getD (12 + k) 0 = byteOf (s.regRead .block1Hi) k)

/-! ### The palette commands -/

/-- 41_palette.md R138: GET_R.U.I. -/
def Obligations.GetEntryUnsignedInteger : Prop :=
  ∀ (s : State) (slot : Slot),
    encode (.getRUI slot) = BitVec.ofNat 32 (0x8 + 64 * slot.bit.toNat) ∧
    (0 ≤ s.argInt0 → s.argInt0 ≤ 7 →
      ∃ t, exec (.getRUI slot) s = .next t ∧
        t.result.toInt = slotInt .unsigned (epValue (s.block slot) .e0 .unsigned) (epValue (s.block slot) .e1 .unsigned) s.argInt0 ∧
        CompletedWith .none s t ∧ KeepsAllButResult s t) ∧
    (s.argInt0 < 0 ∨ 7 < s.argInt0 →
      ∃ t, exec (.getRUI slot) s = .next t ∧ CompletedWith .outOfRange s t ∧ KeepsAll s t)

/-- 41_palette.md R139: GET_R.U.F. -/
def Obligations.GetEntryUnsignedFloat : Prop :=
  ∀ (s : State) (slot : Slot),
    encode (.getRUF slot) = BitVec.ofNat 32 (0x28 + 64 * slot.bit.toNat) ∧
    (0 ≤ s.argInt0 → s.argInt0 ≤ 7 →
      ∃ t, exec (.getRUF slot) s = .next t ∧
        t.result = slotFloat .unsigned (epValue (s.block slot) .e0 .unsigned) (epValue (s.block slot) .e1 .unsigned) s.argInt0 ∧
        CompletedWith .none s t ∧ KeepsAllButResult s t) ∧
    (s.argInt0 < 0 ∨ 7 < s.argInt0 →
      ∃ t, exec (.getRUF slot) s = .next t ∧ CompletedWith .outOfRange s t ∧ KeepsAll s t)

/-- 41_palette.md R140: GET_R.S.I. -/
def Obligations.GetEntrySignedInteger : Prop :=
  ∀ (s : State) (slot : Slot),
    encode (.getRSI slot) = BitVec.ofNat 32 (0x18 + 64 * slot.bit.toNat) ∧
    (0 ≤ s.argInt0 → s.argInt0 ≤ 7 →
      ∃ t, exec (.getRSI slot) s = .next t ∧
        t.result.toInt = slotInt .signed (epValue (s.block slot) .e0 .signed) (epValue (s.block slot) .e1 .signed) s.argInt0 ∧
        CompletedWith .none s t ∧ KeepsAllButResult s t) ∧
    (s.argInt0 < 0 ∨ 7 < s.argInt0 →
      ∃ t, exec (.getRSI slot) s = .next t ∧ CompletedWith .outOfRange s t ∧ KeepsAll s t)

/-- 41_palette.md R141: GET_R.S.F. -/
def Obligations.GetEntrySignedFloat : Prop :=
  ∀ (s : State) (slot : Slot),
    encode (.getRSF slot) = BitVec.ofNat 32 (0x38 + 64 * slot.bit.toNat) ∧
    (0 ≤ s.argInt0 → s.argInt0 ≤ 7 →
      ∃ t, exec (.getRSF slot) s = .next t ∧
        t.result = slotFloat .signed (epValue (s.block slot) .e0 .signed) (epValue (s.block slot) .e1 .signed) s.argInt0 ∧
        CompletedWith .none s t ∧ KeepsAllButResult s t) ∧
    (s.argInt0 < 0 ∨ 7 < s.argInt0 →
      ∃ t, exec (.getRSF slot) s = .next t ∧ CompletedWith .outOfRange s t ∧ KeepsAll s t)

/-- 41_palette.md R142, R143: GET_RVALUES.U.I. -/
def Obligations.WritePaletteUnsignedInteger : Prop :=
  ∀ (s : State) (slot : Slot),
    encode (.getRValuesUI slot) = BitVec.ofNat 32 (0x9 + 64 * slot.bit.toNat) ∧
    (s.operands.bufcfg.getLsbD 1 = true → outFits s = true →
      ∃ t, exec (.getRValuesUI slot) s = .next t ∧
        (∀ k < 8, (t.readWord (0x2000 + 4 * (s.operands.dstBase.toNat + s.argInt0.toNat + k))).toInt =
          slotInt .unsigned (epValue (s.block slot) .e0 .unsigned) (epValue (s.block slot) .e1 .unsigned) k) ∧
        CompletedWith .none s t ∧
        KeepsAllButOut (0x2000 + 4 * (s.operands.dstBase.toNat + s.argInt0.toNat)) 32 s t) ∧
    (s.operands.bufcfg.getLsbD 1 = false →
      ∃ t, exec (.getRValuesUI slot) s = .next t ∧ CompletedWith .missingArgument s t ∧ KeepsAll s t) ∧
    (s.operands.bufcfg.getLsbD 1 = true → outFits s = false →
      ∃ t, exec (.getRValuesUI slot) s = .next t ∧ CompletedWith .outOfRange s t ∧ KeepsAll s t)

/-- 41_palette.md R142, R144: GET_RVALUES.U.F. -/
def Obligations.WritePaletteUnsignedFloat : Prop :=
  ∀ (s : State) (slot : Slot),
    encode (.getRValuesUF slot) = BitVec.ofNat 32 (0x29 + 64 * slot.bit.toNat) ∧
    (s.operands.bufcfg.getLsbD 1 = true → outFits s = true →
      ∃ t, exec (.getRValuesUF slot) s = .next t ∧
        (∀ k < 8, t.readWord (0x2000 + 4 * (s.operands.dstBase.toNat + s.argInt0.toNat + k)) =
          slotFloat .unsigned (epValue (s.block slot) .e0 .unsigned) (epValue (s.block slot) .e1 .unsigned) k) ∧
        CompletedWith .none s t ∧
        KeepsAllButOut (0x2000 + 4 * (s.operands.dstBase.toNat + s.argInt0.toNat)) 32 s t) ∧
    (s.operands.bufcfg.getLsbD 1 = false →
      ∃ t, exec (.getRValuesUF slot) s = .next t ∧ CompletedWith .missingArgument s t ∧ KeepsAll s t) ∧
    (s.operands.bufcfg.getLsbD 1 = true → outFits s = false →
      ∃ t, exec (.getRValuesUF slot) s = .next t ∧ CompletedWith .outOfRange s t ∧ KeepsAll s t)

/-- 41_palette.md R142, R145: GET_RVALUES.S.I. -/
def Obligations.WritePaletteSignedInteger : Prop :=
  ∀ (s : State) (slot : Slot),
    encode (.getRValuesSI slot) = BitVec.ofNat 32 (0x19 + 64 * slot.bit.toNat) ∧
    (s.operands.bufcfg.getLsbD 1 = true → outFits s = true →
      ∃ t, exec (.getRValuesSI slot) s = .next t ∧
        (∀ k < 8, (t.readWord (0x2000 + 4 * (s.operands.dstBase.toNat + s.argInt0.toNat + k))).toInt =
          slotInt .signed (epValue (s.block slot) .e0 .signed) (epValue (s.block slot) .e1 .signed) k) ∧
        CompletedWith .none s t ∧
        KeepsAllButOut (0x2000 + 4 * (s.operands.dstBase.toNat + s.argInt0.toNat)) 32 s t) ∧
    (s.operands.bufcfg.getLsbD 1 = false →
      ∃ t, exec (.getRValuesSI slot) s = .next t ∧ CompletedWith .missingArgument s t ∧ KeepsAll s t) ∧
    (s.operands.bufcfg.getLsbD 1 = true → outFits s = false →
      ∃ t, exec (.getRValuesSI slot) s = .next t ∧ CompletedWith .outOfRange s t ∧ KeepsAll s t)

/-- 41_palette.md R142, R146: GET_RVALUES.S.F. -/
def Obligations.WritePaletteSignedFloat : Prop :=
  ∀ (s : State) (slot : Slot),
    encode (.getRValuesSF slot) = BitVec.ofNat 32 (0x39 + 64 * slot.bit.toNat) ∧
    (s.operands.bufcfg.getLsbD 1 = true → outFits s = true →
      ∃ t, exec (.getRValuesSF slot) s = .next t ∧
        (∀ k < 8, t.readWord (0x2000 + 4 * (s.operands.dstBase.toNat + s.argInt0.toNat + k)) =
          slotFloat .signed (epValue (s.block slot) .e0 .signed) (epValue (s.block slot) .e1 .signed) k) ∧
        CompletedWith .none s t ∧
        KeepsAllButOut (0x2000 + 4 * (s.operands.dstBase.toNat + s.argInt0.toNat)) 32 s t) ∧
    (s.operands.bufcfg.getLsbD 1 = false →
      ∃ t, exec (.getRValuesSF slot) s = .next t ∧ CompletedWith .missingArgument s t ∧ KeepsAll s t) ∧
    (s.operands.bufcfg.getLsbD 1 = true → outFits s = false →
      ∃ t, exec (.getRValuesSF slot) s = .next t ∧ CompletedWith .outOfRange s t ∧ KeepsAll s t)

/-- 41_palette.md R137 (a) and (b), integer form: the range of the entries and their order. -/
def Obligations.IntegerPaletteRangeAndOrder : Prop :=
  (∀ (b : Block), ∀ v ∈ palInt b .unsigned, 0 ≤ v ∧ v ≤ 255) ∧
  (∀ (b : Block), ∀ v ∈ palInt b .signed, -127 ≤ v ∧ v ≤ 127) ∧
  (∀ (b : Block) (ch : Channel), epValue b .e0 ch > epValue b .e1 ch →
    ([0, 2, 3, 4, 5, 6, 7, 1].map ((palInt b ch).getD · 0)).Pairwise (· ≥ ·)) ∧
  (∀ (b : Block) (ch : Channel), epValue b .e0 ch < epValue b .e1 ch →
    ([0, 2, 3, 4, 5, 1].map ((palInt b ch).getD · 0)).Pairwise (· ≤ ·))

/-- 41_palette.md R137 (a) and (b), float form: every entry is finite and inside the domain, and the entries are in order
between the endpoints. -/
def Obligations.FloatPaletteRange : Prop :=
  (∀ (b : Block) (ch : Channel), ∀ w ∈ palF b ch,
    fisFinite w = true ∧ fle (if ch = .unsigned then 0x00000000 else 0xBF800000) w = true ∧ fle w 0x3F800000 = true) ∧
  (∀ (b : Block) (ch : Channel), epValue b .e0 ch > epValue b .e1 ch →
    ([0, 2, 3, 4, 5, 6, 7, 1].map ((palF b ch).getD · 0)).Pairwise (fun u v => fle v u = true)) ∧
  (∀ (b : Block) (ch : Channel), epValue b .e0 ch < epValue b .e1 ch →
    ([0, 2, 3, 4, 5, 1].map ((palF b ch).getD · 0)).Pairwise (fun u v => fle u v = true))

/-! ### Arithmetic -/

/-- 00_scope.md R10, R14: `fadd` is the exact sum rounded to nearest, ties to even, in units of 2^-149; it is infinite
exactly when the sum rounds past the largest finite value; its sign is that of the sum, and an exact zero sum is +0 unless
both operands are negative; `fsub` is the sum with the sign of the second operand changed. The overflow and the sign of a
zero are the IEEE 754 standard's (log 21). -/
def Obligations.AddRoundsToNearestEven : Prop :=
  ∀ a b : Word, fisFinite a = true → fisFinite b = true →
    fisNaN (fadd a b) = false ∧
    (fisInf (fadd a b) = true ↔ ((2 ^ 25 - 1) * 2 ^ 252 : Nat) ≤ (funits a + funits b).natAbs) ∧
    (funits a + funits b ≠ 0 → (fsign (fadd a b) = true ↔ funits a + funits b < 0)) ∧
    (funits a + funits b = 0 → fadd a b = if fsign a && fsign b then 0x80000000 else 0x00000000) ∧
    fsub a b = fadd a (b ^^^ 0x80000000) ∧
    (fisFinite (fadd a b) = true → ∀ c : Word, fisFinite c = true →
      (funits (fadd a b) - (funits a + funits b)).natAbs ≤ (funits c - (funits a + funits b)).natAbs ∧
      ((funits (fadd a b) - (funits a + funits b)).natAbs = (funits c - (funits a + funits b)).natAbs →
        funits c ≠ funits (fadd a b) → (fadd a b).getLsbD 0 = false))

/-- 00_scope.md R10, R14: `fmul` is the exact product rounded to nearest, ties to even; its sign says
whether the operands' signs differ. The sign of a zero and of an infinity, and the overflow, are the IEEE 754 standard's
(log 21). -/
def Obligations.MulRoundsToNearestEven : Prop :=
  ∀ a b : Word, fisFinite a = true → fisFinite b = true →
    fisNaN (fmul a b) = false ∧
    fsign (fmul a b) = (fsign a != fsign b) ∧
    (fisInf (fmul a b) = true ↔ ((2 ^ 25 - 1) * 2 ^ 252 * 2 ^ 149 : Nat) ≤ (funits a * funits b).natAbs) ∧
    (fisFinite (fmul a b) = true → ∀ c : Word, fisFinite c = true →
      (funits (fmul a b) * 2 ^ 149 - funits a * funits b).natAbs ≤ (funits c * 2 ^ 149 - funits a * funits b).natAbs ∧
      ((funits (fmul a b) * 2 ^ 149 - funits a * funits b).natAbs = (funits c * 2 ^ 149 - funits a * funits b).natAbs →
        funits c ≠ funits (fmul a b) → (fmul a b).getLsbD 0 = false))

/-- 00_scope.md R10, R14: `fdiv` by a nonzero value is the exact quotient rounded to nearest, ties to even; its sign
says whether the operands' signs differ. The sign of a zero and of an infinity, and the overflow, are the IEEE 754
standard's (log 21). -/
def Obligations.DivRoundsToNearestEven : Prop :=
  ∀ a b : Word, fisFinite a = true → fisFinite b = true → funits b ≠ 0 →
    fisNaN (fdiv a b) = false ∧
    fsign (fdiv a b) = (fsign a != fsign b) ∧
    (fisInf (fdiv a b) = true ↔ (2 ^ 25 - 1) * 2 ^ 252 * (funits b).natAbs ≤ (funits a).natAbs * 2 ^ 149) ∧
    (fisFinite (fdiv a b) = true → ∀ c : Word, fisFinite c = true →
      (funits (fdiv a b) * funits b - funits a * 2 ^ 149).natAbs ≤ (funits c * funits b - funits a * 2 ^ 149).natAbs ∧
      ((funits (fdiv a b) * funits b - funits a * 2 ^ 149).natAbs = (funits c * funits b - funits a * 2 ^ 149).natAbs →
        funits c ≠ funits (fdiv a b) → (fdiv a b).getLsbD 0 = false))

/-- 00_scope.md R14: `f32(n)` is exact for |n| ≤ 2^24. -/
def Obligations.IntegerConversionExact : Prop :=
  ∀ n : Int, n.natAbs ≤ 2 ^ 24 → fisFinite (f32 n) = true ∧ funits (f32 n) = n * 2 ^ 149

/-- 42_encoder.md R170: the grid constants are the binary32 values nearest to their rationals, and D_n is C_n
reversed. -/
def Obligations.GridConstantsNearest : Prop :=
  gridC .eight = (List.range 8).map (fun k => fratio (7 - k) 7) ∧
  gridD .eight = (List.range 8).map (fun k => fratio k 7) ∧
  gridC .six = (List.range 6).map (fun k => fratio (5 - k) 5) ∧
  gridD .six = (List.range 6).map (fun k => fratio k 5) ∧
  gridD .eight = (gridC .eight).reverse ∧ gridD .six = (gridC .six).reverse ∧
  gridC .eight =
    [0x3F800000, 0x3F5B6DB7, 0x3F36DB6E, 0x3F124925, 0x3EDB6DB7, 0x3E924925, 0x3E124925, 0x00000000] ∧
  gridC .six = [0x3F800000, 0x3F4CCCCD, 0x3F19999A, 0x3ECCCCCD, 0x3E4CCCCD, 0x00000000]

/-! ### The encoder's stages -/

/-- 42_encoder.md R163: `Clamp` and its consequences, in both domains. -/
def Obligations.ClampIntoDomain : Prop :=
  ∀ (ch : Channel) (v : Word),
    (fle (domLo ch) (clampTo v (domLo ch) domHi) = true ∧ fle (clampTo v (domLo ch) domHi) domHi = true) ∧
    (fle (domLo ch) v = true → fle v domHi = true → clampTo v (domLo ch) domHi = v) ∧
    (fisNaN v = true → clampTo v (domLo ch) domHi = domLo ch) ∧
    (flt v (domLo ch) = true → clampTo v (domLo ch) domHi = domLo ch) ∧
    (flt domHi v = true → clampTo v (domLo ch) domHi = domHi) ∧
    clampTo 0xFF800000 (domLo ch) domHi = domLo ch ∧ clampTo 0x7F800000 (domLo ch) domHi = domHi ∧
    clampTo 0x80000000 (domLo ch) domHi = 0x80000000

/-- 42_encoder.md R164: the samples are clamped in place; MIN and MAX are a least and a greatest of them, the first
kept among equals. -/
def Obligations.ScanFindsFirstMinAndMax : Prop :=
  ∀ (ch : Channel) (sc : Scratch), sc.samples.length = 16 →
    (∀ i < 16, (scanMinMax ch sc).samples.getD i 0 = clampTo (sc.samples.getD i 0) (domLo ch) domHi) ∧
    (∃ i < 16, (scanMinMax ch sc).min = (scanMinMax ch sc).samples.getD i 0 ∧
      (∀ j < 16, fle (scanMinMax ch sc).min ((scanMinMax ch sc).samples.getD j 0) = true) ∧
      (∀ j < i, flt (scanMinMax ch sc).min ((scanMinMax ch sc).samples.getD j 0) = true)) ∧
    (∃ i < 16, (scanMinMax ch sc).max = (scanMinMax ch sc).samples.getD i 0 ∧
      (∀ j < 16, fle ((scanMinMax ch sc).samples.getD j 0) (scanMinMax ch sc).max = true) ∧
      (∀ j < i, flt ((scanMinMax ch sc).samples.getD j 0) (scanMinMax ch sc).max = true))

/-- 42_encoder.md R165, R166: the 6-point mode exactly when some clamped sample equals a domain bound. -/
def Obligations.SixPointModeIffExtremePresent : Prop :=
  ∀ (ch : Channel) (sc : Scratch), sc.samples.length = 16 →
    ((chooseScheme ch (scanMinMax ch sc)).has = true ↔
      ∃ v ∈ (scanMinMax ch sc).samples, feq v (domLo ch) = true ∨ feq v domHi = true) ∧
    ((chooseScheme ch (scanMinMax ch sc)).n = .six ↔ (chooseScheme ch (scanMinMax ch sc)).has = true)

/-- 42_encoder.md R167, R168: the initial bracket. In 6-point mode it spans the samples that are no domain extreme,
and is (hi, hi) when there are none. -/
def Obligations.InitialBracketSpansInnerSamples : Prop :=
  ∀ (ch : Channel) (sc : Scratch),
    (sc.n = .eight → (initialBracket ch sc).x = sc.min ∧ (initialBracket ch sc).y = sc.max) ∧
    (sc.n = .six → (∀ v ∈ sc.samples, isInner ch v = false) →
      (initialBracket ch sc).x = domHi ∧ (initialBracket ch sc).y = domHi) ∧
    (sc.n = .six → (∃ v ∈ sc.samples, isInner ch v = true) →
      (initialBracket ch sc).x ∈ sc.samples ∧ isInner ch (initialBracket ch sc).x = true ∧
      (initialBracket ch sc).y ∈ sc.samples ∧ isInner ch (initialBracket ch sc).y = true ∧
      ∀ v ∈ sc.samples, isInner ch v = true →
        fle (initialBracket ch sc).x v = true ∧ fle v (initialBracket ch sc).y = true)

/-- 42_encoder.md R169, R176: the loop runs its body some k ≤ 8 times; no stop test held earlier, and it ended at the
bound, at the range stop (0x3B800000 is 2^-8) or at the gradient stop (0x3C800000 is 2^-6). ITER counts the bodies run. -/
def Obligations.NewtonLoopStopsAsSpecified : Prop :=
  (∀ sc : Scratch, rangeStop sc = true ↔ flt (fsub sc.y sc.x) 0x3B800000 = true) ∧
  (∀ a : Sums, gradientStop a = true ↔
    flt (fmul a.dX a.dX) 0x3C800000 = true ∧ flt (fmul a.dY a.dY) 0x3C800000 = true) ∧
  ∀ (ch : Channel) (sc : Scratch), ∃ k ≤ 8,
    newtonLoop ch newtonBound sc = (newtonBody ch)^[k] sc ∧
    (newtonLoop ch newtonBound sc).iter = sc.iter + k ∧
    (∀ j < k, rangeStop ((newtonBody ch)^[j] sc) = false) ∧
    (∀ j, j + 1 < k → gradientStop (iterationSums ch ((newtonBody ch)^[j] sc)) = false) ∧
    (k = 8 ∨ rangeStop ((newtonBody ch)^[k] sc) = true ∨
      ∃ j, k = j + 1 ∧ gradientStop (iterationSums ch ((newtonBody ch)^[j] sc)) = true)

/-- 42_encoder.md R171 to R175, the body of the Newton loop: the grid, and the finite scale where the range stop did not
hold; a sample's step by the three cases of R172 (0x40E00000 is 7.0, 0x40A00000 is 5.0); the sums, in the order of the
samples, without those snapped; an endpoint moves only where its curvature is strictly positive; crossed endpoints are
swapped; ITER counts; nothing else in the scratch changes. -/
def Obligations.UpdateGuardedAndOrdered : Prop :=
  (∀ (ch : Channel) (n : Scheme) (x y : Word),
    (gridSteps ch n x y).length = 8 ∧
    (∀ k < n.numSteps,
      (gridSteps ch n x y).getD k 0 = fadd (fmul ((gridC n).getD k 0) x) (fmul ((gridD n).getD k 0) y)) ∧
    (n = .six → (gridSteps ch n x y).getD 6 0 = (if ch = .unsigned then 0x00000000 else 0xBF800000) ∧
      (gridSteps ch n x y).getD 7 0 = 0x3F800000) ∧
    (fisNaN (fsub y x) = false → flt (fsub y x) 0x3B800000 = false → fisFinite (gridScale n x y) = true)) ∧
  (∀ (n : Scheme) (x y p : Word),
    let last : Word := if n = .six then 0x40A00000 else 0x40E00000
    let dot := stepDot last x y p
    let st := assignStep n x y (gridScale n x y) p
    (fle dot 0x00000000 = true → st = if n = .six ∧ fle p (fmul x 0x3F000000) = true then 6 else 0) ∧
    (fle dot 0x00000000 = false → fge dot last = true →
      st = if n = .six ∧ fge p (fmul (fadd y 0x3F800000) 0x3F000000) = true then 7 else n.numSteps - 1) ∧
    (fle dot 0x00000000 = false → fge dot last = false → fisNaN dot = false →
      (st : Int) = truncInt (fadd dot 0x3F000000) ∧ st < n.numSteps)) ∧
  (∀ (ch : Channel) (sc : Scratch),
    iterationSums ch sc = sc.samples.foldl
      (fun a p => sumsTurn sc.n sc.x sc.y (assignStep sc.n sc.x sc.y (gridScale sc.n sc.x sc.y) p) a p)
      { dX := 0x00000000, dY := 0x00000000, d2X := 0x00000000, d2Y := 0x00000000 }) ∧
  (∀ (ch : Channel) (sc : Scratch),
    let a := iterationSums ch sc
    let x := if fgt a.d2X 0x00000000 = true then fsub sc.x (fdiv a.dX a.d2X) else sc.x
    let y := if fgt a.d2Y 0x00000000 = true then fsub sc.y (fdiv a.dY a.d2Y) else sc.y
    let t := newtonBody ch sc
    (fgt x y = false → t.x = x ∧ t.y = y) ∧ (fgt x y = true → t.x = y ∧ t.y = x) ∧ fgt t.x t.y = false ∧
    t = { sc with steps := gridSteps ch sc.n sc.x sc.y, iter := sc.iter + 1, x := t.x, y := t.y })

/-- 42_encoder.md R185: the refined endpoints of 16 samples, whatever they are, are finite. -/
def Obligations.RefinedEndpointsFinite : Prop :=
  ∀ (ch : Channel) (sc : Scratch), sc.samples.length = 16 →
    fisFinite (newtonLoop ch newtonBound (beforeNewton ch sc)).x = true ∧
    fisFinite (newtonLoop ch newtonBound (beforeNewton ch sc)).y = true

/-- 42_encoder.md R177, R180, R186: which refined endpoint is quantized to which byte; the order of the two in each mode;
the scheme their stored bytes imply at decode; that the palette is the one they imply there (41_palette.md R134 to R136);
and that each index is that of its sample's closest slot. -/
def Obligations.QuantizedEndpointsOrdered : Prop :=
  ∀ (ch : Channel) (sc : Scratch), sc.samples.length = 16 →
    let r := encodeStages ch sc
    let a := epValue (encodedBlock r) .e0 ch
    let b := epValue (encodedBlock r) .e1 ch
    let u := newtonLoop ch 8 (beforeNewton ch sc)
    a = r.e0 ∧ b = r.e1 ∧
    (r.n = .six → r.e0 = quant ch (clampTo u.x (domLo ch) domHi) ∧ r.e1 = quant ch (clampTo u.y (domLo ch) domHi)) ∧
    (r.n = .eight → r.e0 = quant ch (clampTo u.y (domLo ch) domHi) ∧ r.e1 = quant ch (clampTo u.x (domLo ch) domHi)) ∧
    (r.n = .six → r.e0 ≤ r.e1 ∧ schemeOf a b = .six) ∧
    (r.n = .eight → r.e1 ≤ r.e0 ∧ (r.e1 < r.e0 → schemeOf a b = .eight) ∧ (r.e0 = r.e1 → schemeOf a b = .six)) ∧
    r.pal.length = 8 ∧ (∀ k < 8, r.pal.getD k 0 = slotFloat ch a b k) ∧
    r.idx.length = 16 ∧ ∀ i < 16, r.idx.getD i 0 = closest r.pal (clampTo (sc.samples.getD i 0) (domLo ch) domHi)

/-- 42_encoder.md R178, R179: the quantizers by their formulas (0x437F0000 is 255.0, 0x42FE0000 is 127.0, 0x3F000000 is
0.5), their ranges, that QuantS never gives -128, and the rules' examples; and what they and the encoder rest on of
00_scope.md R14: `trunc_int` of a finite value is truncation toward zero, comparisons are false with a NaN and else those
of the values (in units of 2^-149, an infinity beyond every finite one), and `fabs` clears the sign. -/
def Obligations.QuantizersInRange : Prop :=
  (∀ v : Word, quantU v = truncInt (fmul v 0x437F0000)) ∧
  (∀ v : Word,
    (fge (fmul v 0x42FE0000) 0x00000000 = true →
      quantS v = min 127 (max (-127) (truncInt (fadd (fmul v 0x42FE0000) 0x3F000000)))) ∧
    (fge (fmul v 0x42FE0000) 0x00000000 = false →
      quantS v = min 127 (max (-127) (truncInt (fsub (fmul v 0x42FE0000) 0x3F000000))))) ∧
  (∀ v : Word, fle 0x00000000 v = true → fle v 0x3F800000 = true → 0 ≤ quantU v ∧ quantU v ≤ 255) ∧
  (∀ v : Word, -127 ≤ quantS v ∧ quantS v ≤ 127) ∧
  quantU 0x3F800000 = 255 ∧ quantU 0x3D9D9FB7 = 19 ∧ quantU 0x80000000 = 0 ∧
  fmul 0x3B810204 0x42FE0000 = 0x3F000000 ∧ fadd 0x3F000000 0x3F000000 = 0x3F800000 ∧ quantS 0x3B810204 = 1 ∧
  fadd 0x3EFFFFFF 0x3F000000 = 0x3F800000 ∧
  (∀ v : Word, fisFinite v = true →
    (0 ≤ funits v → truncInt v * 2 ^ 149 ≤ funits v ∧ funits v < (truncInt v + 1) * 2 ^ 149) ∧
    (funits v ≤ 0 → (truncInt v - 1) * 2 ^ 149 < funits v ∧ funits v ≤ truncInt v * 2 ^ 149)) ∧
  (∀ a b : Word, fisNaN a = true ∨ fisNaN b = true →
    flt a b = false ∧ fle a b = false ∧ fgt a b = false ∧ fge a b = false ∧ feq a b = false) ∧
  (∀ a b : Word, fisNaN a = false → fisNaN b = false →
    (flt a b = true ↔ funits a < funits b) ∧ (fle a b = true ↔ funits a ≤ funits b) ∧
    (fgt a b = true ↔ funits b < funits a) ∧ (fge a b = true ↔ funits b ≤ funits a) ∧
    (feq a b = true ↔ funits a = funits b)) ∧
  (∀ c : Word, fisFinite c = true → funits 0xFF800000 < funits c ∧ funits c < funits 0x7F800000) ∧
  feq 0x80000000 0x00000000 = true ∧
  (∀ a : Word, fabs a = a &&& 0x7FFFFFFF ∧ fsign (fabs a) = false ∧ funits (fabs a) = (funits a).natAbs)

/-- 42_encoder.md R180: the slot chosen is a nearest one, and the lowest among the nearest. -/
def Obligations.ClosestIsNearestLowest : Prop :=
  ∀ (pal : List Word) (p : Word), pal.length = 8 → (∀ e ∈ pal, fisFinite e = true) → fisFinite p = true →
    closest pal p < 8 ∧
    (∀ j < 8, fle (slotDist (pal.getD (closest pal p) 0) p) (slotDist (pal.getD j 0) p) = true) ∧
    (∀ j < closest pal p, flt (slotDist (pal.getD (closest pal p) 0) p) (slotDist (pal.getD j 0) p) = true)

/-- 42_encoder.md R181: every field of a packed block, and that packing is endpoint writes and index writes on any
block. -/
def Obligations.PackFields : Prop :=
  ∀ (e0 e1 : Int) (idx : List Nat), idx.length = 16 → (∀ v ∈ idx, v < 8) →
    ((pack e0 e1 idx).extractLsb' 0 8 = BitVec.ofInt 8 e0) ∧
    ((pack e0 e1 idx).extractLsb' 8 8 = BitVec.ofInt 8 e1) ∧
    (∀ i < 16, ((pack e0 e1 idx).extractLsb' (16 + 3 * i) 3).toNat = idx.getD i 0) ∧
    (∀ (b : Block) (ch : Channel), epWriteOk e0 ch = true → epWriteOk e1 ch = true → e0 ≠ -128 → e1 ≠ -128 →
      pack e0 e1 idx =
        (List.range 16).foldl (fun c i => idxSet c i (idx.getD i 0)) (epWrite (epWrite b .e0 ch e0) .e1 ch e1))

/-! ### The ENCODE commands -/

/-- 42_encoder.md R160, R162, R182, R184: ENCODE.U. What the scratch holds afterwards (the clause on `t.sc`) is the model's
choice (log 7); the block and ENC_INFO are read off it as those rules say. -/
def Obligations.EncodeUnsigned : Prop :=
  ∀ (s : State) (slot : Slot),
    encode (.encodeU slot) = BitVec.ofNat 32 (0x1 + 64 * slot.bit.toNat) ∧
    (s.operands.bufcfg.getLsbD 0 = true → gatherInBounds s →
      ∃ t, exec (.encodeU slot) s = .next t ∧
        t.sc = findClosest (buildPalette .unsigned (quantize .unsigned (clampEnds .unsigned
          (newtonLoop .unsigned 8 (beforeNewton .unsigned { s.sc with samples := gatheredSamples s }))))) ∧
        t.block slot = pack t.sc.e0 t.sc.e1 t.sc.idx ∧
        t.sc.iter ≤ 8 ∧
        t.encInfo.toNat = t.sc.iter + (if t.sc.n = .six then 16 else 0) + 64 ∧
        CompletedWith .none s t ∧ KeepsAllButEncode slot s t) ∧
    (s.operands.bufcfg.getLsbD 0 = false →
      ∃ t, exec (.encodeU slot) s = .next t ∧ CompletedWith .missingArgument s t ∧ KeepsAll s t) ∧
    (s.operands.bufcfg.getLsbD 0 = true → ¬ gatherInBounds s → exec (.encodeU slot) s = .fault .undefinedSrcBounds)

/-- 42_encoder.md R160, R162, R183, R184: ENCODE.S. What the scratch holds afterwards (the clause on `t.sc`) is the model's
choice (log 7); the block and ENC_INFO are read off it as those rules say. -/
def Obligations.EncodeSigned : Prop :=
  ∀ (s : State) (slot : Slot),
    encode (.encodeS slot) = BitVec.ofNat 32 (0x11 + 64 * slot.bit.toNat) ∧
    (s.operands.bufcfg.getLsbD 0 = true → gatherInBounds s →
      ∃ t, exec (.encodeS slot) s = .next t ∧
        t.sc = findClosest (buildPalette .signed (quantize .signed (clampEnds .signed
          (newtonLoop .signed 8 (beforeNewton .signed { s.sc with samples := gatheredSamples s }))))) ∧
        t.block slot = pack t.sc.e0 t.sc.e1 t.sc.idx ∧
        t.sc.iter ≤ 8 ∧
        t.encInfo.toNat = t.sc.iter + (if t.sc.n = .six then 16 else 0) + 32 + 64 ∧
        CompletedWith .none s t ∧ KeepsAllButEncode slot s t) ∧
    (s.operands.bufcfg.getLsbD 0 = false →
      ∃ t, exec (.encodeS slot) s = .next t ∧ CompletedWith .missingArgument s t ∧ KeepsAll s t) ∧
    (s.operands.bufcfg.getLsbD 0 = true → ¬ gatherInBounds s → exec (.encodeS slot) s = .fault .undefinedSrcBounds)

/-- 42_encoder.md R188: an ENCODE's block and ENC_INFO depend on nothing but the SRC words, ARG0 to ARG2, SRC_BASE,
SRC_LEN, BUFCFG and S. -/
def Obligations.EncodeDeterministic : Prop :=
  ∀ (i : Instr) (slot : Slot) (s s' : State), i = .encodeU slot ∨ i = .encodeS slot → SameEncodeInputs s s' →
    (∀ t, s.operands.bufcfg.getLsbD 0 = true → exec i s = .next t →
      ∃ t', exec i s' = .next t' ∧ t'.block slot = t.block slot ∧ t'.encInfo = t.encInfo) ∧
    (∀ f, exec i s = .fault f → exec i s' = .fault f)

/-! ### The whole machine -/

/-- 60_exceptions.md R222, R223: the error each command ends with, an illegal word's, and that a command ending in an
error changes no state but STATUS (and the sequencer). -/
def Obligations.ErrorTableAndErrorFrame : Prop :=
  (∀ (i : Instr) (s t : State), exec i s = .next t →
    CompletedWith (commandError i s) s t ∧ (commandError i s ≠ .none → KeepsAll s t)) ∧
  (∀ (s : State) (w : Word) (a : Args), s.seq = .busy w a → (fieldsOf w).legal = false →
    ∃ t, coreStep s = .next t ∧ CompletedWith .illegalCommand s t ∧ KeepsAll s t)

/-- 43_control.md R202: the core preserves ARG0 to ARG3, BUFCFG and the buffer descriptors across every command. -/
def Obligations.CommandsKeepOperands : Prop :=
  ∀ (i : Instr) (s t : State), exec i s = .next t → KeepsOperands s t

/-- 10_state.md R31, R33, R37; 20_memory.md R52, R53: which commands may change RESULT, ENC_INFO, a block register, OUT;
and that no command changes SRC. -/
def Obligations.CommandsWriteOnlyTheirResults : Prop :=
  ∀ (i : Instr) (s t : State), exec i s = .next t →
    (writesResult i = false ∨ commandError i s ≠ .none → t.result = s.result) ∧
    (isEncode i = false ∨ commandError i s ≠ .none → t.encInfo = s.encInfo) ∧
    (∀ slot, writesBlock i ≠ some slot ∨ commandError i s ≠ .none → t.block slot = s.block slot) ∧
    (writesOut i = false ∨ commandError i s ≠ .none → KeepsMemory s t) ∧
    (∀ a < 0x2000, t.readByte a = s.readByte a) ∧
    (writesOut i = true → commandError i s = .none →
      KeepsMemoryOutside (0x2000 + 4 * (s.operands.dstBase.toNat + s.argInt0.toNat)) 32 s t)

/-- 10_state.md R40: no command's outcome depends on the scratch it finds, but for the scratch itself, which the rule
leaves unspecified after a command (log 7). -/
def Obligations.ScratchNeverRead : Prop :=
  ∀ (i : Instr) (s : State) (sc : Scratch),
    (∀ t, exec i s = .next t → ∃ t', exec i { s with sc := sc } = .next t' ∧ { t' with sc := t.sc } = t) ∧
    (∀ f, exec i s = .fault f → exec i { s with sc := sc } = .fault f)

/-- 70_reset_and_hazards.md R255 to R258: any number of host accesses between issue and completion leaves the
command's results as they would have been. -/
def Obligations.ScheduleDoesNotMatter : Prop :=
  ∀ (acts : List HostAction) (s u : State), statusBusy s.status = true →
    (∀ a ∈ acts, a.isAccess = true) → actAll acts s = .next u →
    (∀ t, coreStep s = .next t → ∃ t', coreStep u = .next t' ∧ SameResults t t') ∧
    (∀ f, coreStep s = .fault f → coreStep u = .fault f)

/-- The invariant holds at reset. Its clauses on the parameters and the scratch hold of the values the model chose there
(log 3, log 6). -/
def Obligations.InvariantAtReset : Prop := Inv State.reset

/-- Every step keeps the invariant: the parameters' ranges, the shape of STATUS, ENC_INFO and BUFCFG, BUSY exactly when
the sequencer is busy, the snapshot equal to the live registers, memory canonical and at existing words, the scratch's
shape. That memory lists only written bytes is the model's form (log 4). -/
def Obligations.StepKeepsInvariant : Prop := ∀ s t : State, Inv s → step s = .next t → Inv t
end

