-- ==== Sys2Proof/Laws/State.lean ====
section
/-! SUPPORT. One lemma per field per update of State: what each named operation leaves in each field. Later proofs
cite these and unfold no record update. -/

namespace Sys2Proof.Machine

/-! ### finish -/

@[simp] theorem State.finish_params (s : State) (c : ErrCode) : (s.finish c).params = s.params := rfl
@[simp] theorem State.finish_live (s : State) (c : ErrCode) : (s.finish c).live = s.live := rfl
@[simp] theorem State.finish_status (s : State) (c : ErrCode) : (s.finish c).status = statusAtCompletion s.status c := rfl
@[simp] theorem State.finish_encInfo (s : State) (c : ErrCode) : (s.finish c).encInfo = s.encInfo := rfl
@[simp] theorem State.finish_result (s : State) (c : ErrCode) : (s.finish c).result = s.result := rfl
@[simp] theorem State.finish_block0 (s : State) (c : ErrCode) : (s.finish c).block0 = s.block0 := rfl
@[simp] theorem State.finish_block1 (s : State) (c : ErrCode) : (s.finish c).block1 = s.block1 := rfl
@[simp] theorem State.finish_seq (s : State) (c : ErrCode) : (s.finish c).seq = .idle := rfl
@[simp] theorem State.finish_sc (s : State) (c : ErrCode) : (s.finish c).sc = s.sc := rfl
@[simp] theorem State.finish_mem (s : State) (c : ErrCode) : (s.finish c).mem = s.mem := rfl
@[simp] theorem State.finish_epoch (s : State) (c : ErrCode) : (s.finish c).epoch = s.epoch := rfl
@[simp] theorem State.finish_draws (s : State) (c : ErrCode) : (s.finish c).draws = s.draws := rfl
@[simp] theorem State.finish_script (s : State) (c : ErrCode) : (s.finish c).script = s.script := rfl
@[simp] theorem State.finish_readLog (s : State) (c : ErrCode) : (s.finish c).readLog = s.readLog := rfl

/-! ### complete -/

@[simp] theorem State.complete_params (s : State) : (s.complete).params = s.params := rfl
@[simp] theorem State.complete_live (s : State) : (s.complete).live = s.live := rfl
@[simp] theorem State.complete_status (s : State) : (s.complete).status = statusAtCompletion s.status .none := rfl
@[simp] theorem State.complete_encInfo (s : State) : (s.complete).encInfo = s.encInfo := rfl
@[simp] theorem State.complete_result (s : State) : (s.complete).result = s.result := rfl
@[simp] theorem State.complete_block0 (s : State) : (s.complete).block0 = s.block0 := rfl
@[simp] theorem State.complete_block1 (s : State) : (s.complete).block1 = s.block1 := rfl
@[simp] theorem State.complete_seq (s : State) : (s.complete).seq = .idle := rfl
@[simp] theorem State.complete_sc (s : State) : (s.complete).sc = s.sc := rfl
@[simp] theorem State.complete_mem (s : State) : (s.complete).mem = s.mem := rfl
@[simp] theorem State.complete_epoch (s : State) : (s.complete).epoch = s.epoch := rfl
@[simp] theorem State.complete_draws (s : State) : (s.complete).draws = s.draws := rfl
@[simp] theorem State.complete_script (s : State) : (s.complete).script = s.script := rfl
@[simp] theorem State.complete_readLog (s : State) : (s.complete).readLog = s.readLog := rfl

/-! ### raiseError -/

@[simp] theorem State.raiseError_params (s : State) (c : ErrCode) : (s.raiseError c).params = s.params := rfl
@[simp] theorem State.raiseError_live (s : State) (c : ErrCode) : (s.raiseError c).live = s.live := rfl
@[simp] theorem State.raiseError_status (s : State) (c : ErrCode) : (s.raiseError c).status = statusAtCompletion s.status c := rfl
@[simp] theorem State.raiseError_encInfo (s : State) (c : ErrCode) : (s.raiseError c).encInfo = s.encInfo := rfl
@[simp] theorem State.raiseError_result (s : State) (c : ErrCode) : (s.raiseError c).result = s.result := rfl
@[simp] theorem State.raiseError_block0 (s : State) (c : ErrCode) : (s.raiseError c).block0 = s.block0 := rfl
@[simp] theorem State.raiseError_block1 (s : State) (c : ErrCode) : (s.raiseError c).block1 = s.block1 := rfl
@[simp] theorem State.raiseError_seq (s : State) (c : ErrCode) : (s.raiseError c).seq = .idle := rfl
@[simp] theorem State.raiseError_sc (s : State) (c : ErrCode) : (s.raiseError c).sc = s.sc := rfl
@[simp] theorem State.raiseError_mem (s : State) (c : ErrCode) : (s.raiseError c).mem = s.mem := rfl
@[simp] theorem State.raiseError_epoch (s : State) (c : ErrCode) : (s.raiseError c).epoch = s.epoch := rfl
@[simp] theorem State.raiseError_draws (s : State) (c : ErrCode) : (s.raiseError c).draws = s.draws := rfl
@[simp] theorem State.raiseError_script (s : State) (c : ErrCode) : (s.raiseError c).script = s.script := rfl
@[simp] theorem State.raiseError_readLog (s : State) (c : ErrCode) : (s.raiseError c).readLog = s.readLog := rfl

/-! ### issue -/

@[simp] theorem State.issue_params (s : State) (w : Word) : (s.issue w).params = s.params := rfl
@[simp] theorem State.issue_live (s : State) (w : Word) : (s.issue w).live = s.live := rfl
@[simp] theorem State.issue_status (s : State) (w : Word) : (s.issue w).status = statusAtIssue := rfl
@[simp] theorem State.issue_encInfo (s : State) (w : Word) : (s.issue w).encInfo = s.encInfo := rfl
@[simp] theorem State.issue_result (s : State) (w : Word) : (s.issue w).result = s.result := rfl
@[simp] theorem State.issue_block0 (s : State) (w : Word) : (s.issue w).block0 = s.block0 := rfl
@[simp] theorem State.issue_block1 (s : State) (w : Word) : (s.issue w).block1 = s.block1 := rfl
@[simp] theorem State.issue_seq (s : State) (w : Word) : (s.issue w).seq = .busy w s.live := rfl
@[simp] theorem State.issue_sc (s : State) (w : Word) : (s.issue w).sc = s.sc := rfl
@[simp] theorem State.issue_mem (s : State) (w : Word) : (s.issue w).mem = s.mem := rfl
@[simp] theorem State.issue_epoch (s : State) (w : Word) : (s.issue w).epoch = s.epoch := rfl
@[simp] theorem State.issue_draws (s : State) (w : Word) : (s.issue w).draws = s.draws := rfl
@[simp] theorem State.issue_script (s : State) (w : Word) : (s.issue w).script = s.script := rfl
@[simp] theorem State.issue_readLog (s : State) (w : Word) : (s.issue w).readLog = s.readLog := rfl

/-! ### resetEvent -/

@[simp] theorem State.resetEvent_params (s : State) : (s.resetEvent).params = s.params := rfl
@[simp] theorem State.resetEvent_live (s : State) : (s.resetEvent).live = Args.reset := rfl
@[simp] theorem State.resetEvent_status (s : State) : (s.resetEvent).status = 0 := rfl
@[simp] theorem State.resetEvent_encInfo (s : State) : (s.resetEvent).encInfo = 0 := rfl
@[simp] theorem State.resetEvent_result (s : State) : (s.resetEvent).result = 0 := rfl
@[simp] theorem State.resetEvent_block0 (s : State) : (s.resetEvent).block0 = 0 := rfl
@[simp] theorem State.resetEvent_block1 (s : State) : (s.resetEvent).block1 = 0 := rfl
@[simp] theorem State.resetEvent_seq (s : State) : (s.resetEvent).seq = .idle := rfl
@[simp] theorem State.resetEvent_sc (s : State) : (s.resetEvent).sc = Scratch.reset := rfl
@[simp] theorem State.resetEvent_mem (s : State) : (s.resetEvent).mem = [] := rfl
@[simp] theorem State.resetEvent_epoch (s : State) : (s.resetEvent).epoch = s.epoch + 1 := rfl
@[simp] theorem State.resetEvent_draws (s : State) : (s.resetEvent).draws = s.draws := rfl
@[simp] theorem State.resetEvent_script (s : State) : (s.resetEvent).script = s.script := rfl
@[simp] theorem State.resetEvent_readLog (s : State) : (s.resetEvent).readLog = s.readLog := rfl

/-! ### outWrite -/

@[simp] theorem State.outWrite_params (s : State) (j : Nat) (w : Word) : (s.outWrite j w).params = s.params := rfl
@[simp] theorem State.outWrite_live (s : State) (j : Nat) (w : Word) : (s.outWrite j w).live = s.live := rfl
@[simp] theorem State.outWrite_status (s : State) (j : Nat) (w : Word) : (s.outWrite j w).status = s.status := rfl
@[simp] theorem State.outWrite_encInfo (s : State) (j : Nat) (w : Word) : (s.outWrite j w).encInfo = s.encInfo := rfl
@[simp] theorem State.outWrite_result (s : State) (j : Nat) (w : Word) : (s.outWrite j w).result = s.result := rfl
@[simp] theorem State.outWrite_block0 (s : State) (j : Nat) (w : Word) : (s.outWrite j w).block0 = s.block0 := rfl
@[simp] theorem State.outWrite_block1 (s : State) (j : Nat) (w : Word) : (s.outWrite j w).block1 = s.block1 := rfl
@[simp] theorem State.outWrite_seq (s : State) (j : Nat) (w : Word) : (s.outWrite j w).seq = s.seq := rfl
@[simp] theorem State.outWrite_sc (s : State) (j : Nat) (w : Word) : (s.outWrite j w).sc = s.sc := rfl
@[simp] theorem State.outWrite_mem (s : State) (j : Nat) (w : Word) : (s.outWrite j w).mem = s.mem.writeWord (outOffset j) w := rfl
@[simp] theorem State.outWrite_epoch (s : State) (j : Nat) (w : Word) : (s.outWrite j w).epoch = s.epoch := rfl
@[simp] theorem State.outWrite_draws (s : State) (j : Nat) (w : Word) : (s.outWrite j w).draws = s.draws := rfl
@[simp] theorem State.outWrite_script (s : State) (j : Nat) (w : Word) : (s.outWrite j w).script = s.script := rfl
@[simp] theorem State.outWrite_readLog (s : State) (j : Nat) (w : Word) : (s.outWrite j w).readLog = s.readLog := rfl

/-! ### finishResult -/

@[simp] theorem State.finishResult_params (s : State) (v : Word) : (s.finishResult v).params = s.params := rfl
@[simp] theorem State.finishResult_live (s : State) (v : Word) : (s.finishResult v).live = s.live := rfl
@[simp] theorem State.finishResult_status (s : State) (v : Word) : (s.finishResult v).status = statusAtCompletion s.status .none := rfl
@[simp] theorem State.finishResult_encInfo (s : State) (v : Word) : (s.finishResult v).encInfo = s.encInfo := rfl
@[simp] theorem State.finishResult_result (s : State) (v : Word) : (s.finishResult v).result = v := rfl
@[simp] theorem State.finishResult_block0 (s : State) (v : Word) : (s.finishResult v).block0 = s.block0 := rfl
@[simp] theorem State.finishResult_block1 (s : State) (v : Word) : (s.finishResult v).block1 = s.block1 := rfl
@[simp] theorem State.finishResult_seq (s : State) (v : Word) : (s.finishResult v).seq = .idle := rfl
@[simp] theorem State.finishResult_sc (s : State) (v : Word) : (s.finishResult v).sc = s.sc := rfl
@[simp] theorem State.finishResult_mem (s : State) (v : Word) : (s.finishResult v).mem = s.mem := rfl
@[simp] theorem State.finishResult_epoch (s : State) (v : Word) : (s.finishResult v).epoch = s.epoch := rfl
@[simp] theorem State.finishResult_draws (s : State) (v : Word) : (s.finishResult v).draws = s.draws := rfl
@[simp] theorem State.finishResult_script (s : State) (v : Word) : (s.finishResult v).script = s.script := rfl
@[simp] theorem State.finishResult_readLog (s : State) (v : Word) : (s.finishResult v).readLog = s.readLog := rfl

/-! ### setBlock -/

@[simp] theorem State.setBlock_params (s : State) (sl : Slot) (b : Block) : (s.setBlock sl b).params = s.params := by cases sl <;> rfl
@[simp] theorem State.setBlock_live (s : State) (sl : Slot) (b : Block) : (s.setBlock sl b).live = s.live := by cases sl <;> rfl
@[simp] theorem State.setBlock_status (s : State) (sl : Slot) (b : Block) : (s.setBlock sl b).status = s.status := by cases sl <;> rfl
@[simp] theorem State.setBlock_encInfo (s : State) (sl : Slot) (b : Block) : (s.setBlock sl b).encInfo = s.encInfo := by cases sl <;> rfl
@[simp] theorem State.setBlock_result (s : State) (sl : Slot) (b : Block) : (s.setBlock sl b).result = s.result := by cases sl <;> rfl
@[simp] theorem State.setBlock_seq (s : State) (sl : Slot) (b : Block) : (s.setBlock sl b).seq = s.seq := by cases sl <;> rfl
@[simp] theorem State.setBlock_sc (s : State) (sl : Slot) (b : Block) : (s.setBlock sl b).sc = s.sc := by cases sl <;> rfl
@[simp] theorem State.setBlock_mem (s : State) (sl : Slot) (b : Block) : (s.setBlock sl b).mem = s.mem := by cases sl <;> rfl
@[simp] theorem State.setBlock_epoch (s : State) (sl : Slot) (b : Block) : (s.setBlock sl b).epoch = s.epoch := by cases sl <;> rfl
@[simp] theorem State.setBlock_draws (s : State) (sl : Slot) (b : Block) : (s.setBlock sl b).draws = s.draws := by cases sl <;> rfl
@[simp] theorem State.setBlock_script (s : State) (sl : Slot) (b : Block) : (s.setBlock sl b).script = s.script := by cases sl <;> rfl
@[simp] theorem State.setBlock_readLog (s : State) (sl : Slot) (b : Block) : (s.setBlock sl b).readLog = s.readLog := by cases sl <;> rfl
@[simp] theorem State.setBlock_block_same (s : State) (sl : Slot) (b : Block) : (s.setBlock sl b).block sl = b := by
  cases sl <;> rfl
theorem State.setBlock_block_ne (s : State) (sl sl' : Slot) (b : Block) (h : sl' ≠ sl) :
    (s.setBlock sl b).block sl' = s.block sl' := by
  cases sl <;> cases sl' <;> first | rfl | exact absurd rfl h

/-! ### finishBlock -/

@[simp] theorem State.finishBlock_params (s : State) (sl : Slot) (b : Block) :
    (s.finishBlock sl b).params = s.params := by cases sl <;> rfl
@[simp] theorem State.finishBlock_live (s : State) (sl : Slot) (b : Block) :
    (s.finishBlock sl b).live = s.live := by cases sl <;> rfl
@[simp] theorem State.finishBlock_status (s : State) (sl : Slot) (b : Block) :
    (s.finishBlock sl b).status = statusAtCompletion s.status .none := by cases sl <;> rfl
@[simp] theorem State.finishBlock_encInfo (s : State) (sl : Slot) (b : Block) :
    (s.finishBlock sl b).encInfo = s.encInfo := by cases sl <;> rfl
@[simp] theorem State.finishBlock_result (s : State) (sl : Slot) (b : Block) :
    (s.finishBlock sl b).result = s.result := by cases sl <;> rfl
@[simp] theorem State.finishBlock_seq (s : State) (sl : Slot) (b : Block) :
    (s.finishBlock sl b).seq = .idle := by cases sl <;> rfl
@[simp] theorem State.finishBlock_sc (s : State) (sl : Slot) (b : Block) :
    (s.finishBlock sl b).sc = s.sc := by cases sl <;> rfl
@[simp] theorem State.finishBlock_mem (s : State) (sl : Slot) (b : Block) :
    (s.finishBlock sl b).mem = s.mem := by cases sl <;> rfl
@[simp] theorem State.finishBlock_epoch (s : State) (sl : Slot) (b : Block) :
    (s.finishBlock sl b).epoch = s.epoch := by cases sl <;> rfl
@[simp] theorem State.finishBlock_draws (s : State) (sl : Slot) (b : Block) :
    (s.finishBlock sl b).draws = s.draws := by cases sl <;> rfl
@[simp] theorem State.finishBlock_script (s : State) (sl : Slot) (b : Block) :
    (s.finishBlock sl b).script = s.script := by cases sl <;> rfl
@[simp] theorem State.finishBlock_readLog (s : State) (sl : Slot) (b : Block) :
    (s.finishBlock sl b).readLog = s.readLog := by cases sl <;> rfl
@[simp] theorem State.finishBlock_block_same (s : State) (sl : Slot) (b : Block) :
    (s.finishBlock sl b).block sl = b := by cases sl <;> rfl
theorem State.finishBlock_block_ne (s : State) (sl : Slot) (b : Block) (sl' : Slot) (h : sl' ≠ sl) :
    (s.finishBlock sl b).block sl' = s.block sl' := by
  cases sl <;> cases sl' <;> first | rfl | exact absurd rfl h

/-! ### finishEncode -/

@[simp] theorem State.finishEncode_params (s : State) (ch : Channel) (sl : Slot) (sc : Scratch) :
    (s.finishEncode ch sl sc).params = s.params := by cases sl <;> rfl
@[simp] theorem State.finishEncode_live (s : State) (ch : Channel) (sl : Slot) (sc : Scratch) :
    (s.finishEncode ch sl sc).live = s.live := by cases sl <;> rfl
@[simp] theorem State.finishEncode_status (s : State) (ch : Channel) (sl : Slot) (sc : Scratch) :
    (s.finishEncode ch sl sc).status = statusAtCompletion s.status .none := by cases sl <;> rfl
@[simp] theorem State.finishEncode_encInfo (s : State) (ch : Channel) (sl : Slot) (sc : Scratch) :
    (s.finishEncode ch sl sc).encInfo = encInfoWord sc.iter (sc.n == Scheme.six) ch.bit := by cases sl <;> rfl
@[simp] theorem State.finishEncode_result (s : State) (ch : Channel) (sl : Slot) (sc : Scratch) :
    (s.finishEncode ch sl sc).result = s.result := by cases sl <;> rfl
@[simp] theorem State.finishEncode_seq (s : State) (ch : Channel) (sl : Slot) (sc : Scratch) :
    (s.finishEncode ch sl sc).seq = .idle := by cases sl <;> rfl
@[simp] theorem State.finishEncode_sc (s : State) (ch : Channel) (sl : Slot) (sc : Scratch) :
    (s.finishEncode ch sl sc).sc = sc := by cases sl <;> rfl
@[simp] theorem State.finishEncode_mem (s : State) (ch : Channel) (sl : Slot) (sc : Scratch) :
    (s.finishEncode ch sl sc).mem = s.mem := by cases sl <;> rfl
@[simp] theorem State.finishEncode_epoch (s : State) (ch : Channel) (sl : Slot) (sc : Scratch) :
    (s.finishEncode ch sl sc).epoch = s.epoch := by cases sl <;> rfl
@[simp] theorem State.finishEncode_draws (s : State) (ch : Channel) (sl : Slot) (sc : Scratch) :
    (s.finishEncode ch sl sc).draws = s.draws := by cases sl <;> rfl
@[simp] theorem State.finishEncode_script (s : State) (ch : Channel) (sl : Slot) (sc : Scratch) :
    (s.finishEncode ch sl sc).script = s.script := by cases sl <;> rfl
@[simp] theorem State.finishEncode_readLog (s : State) (ch : Channel) (sl : Slot) (sc : Scratch) :
    (s.finishEncode ch sl sc).readLog = s.readLog := by cases sl <;> rfl
@[simp] theorem State.finishEncode_block_same (s : State) (ch : Channel) (sl : Slot) (sc : Scratch) :
    (s.finishEncode ch sl sc).block sl = encodedBlock sc := by cases sl <;> rfl
theorem State.finishEncode_block_ne (s : State) (ch : Channel) (sl : Slot) (sc : Scratch) (sl' : Slot) (h : sl' ≠ sl) :
    (s.finishEncode ch sl sc).block sl' = s.block sl' := by
  cases sl <;> cases sl' <;> first | rfl | exact absurd rfl h

/-! ### outWriteAll -/

@[simp] theorem State.outWriteAll_params (s : State) (j : Nat) (ws : List Word) : (s.outWriteAll j ws).params = s.params := by
  induction ws generalizing s j with
  | nil => rfl
  | cons w ws ih => simp [State.outWriteAll, ih]
@[simp] theorem State.outWriteAll_live (s : State) (j : Nat) (ws : List Word) : (s.outWriteAll j ws).live = s.live := by
  induction ws generalizing s j with
  | nil => rfl
  | cons w ws ih => simp [State.outWriteAll, ih]
@[simp] theorem State.outWriteAll_status (s : State) (j : Nat) (ws : List Word) : (s.outWriteAll j ws).status = s.status := by
  induction ws generalizing s j with
  | nil => rfl
  | cons w ws ih => simp [State.outWriteAll, ih]
@[simp] theorem State.outWriteAll_encInfo (s : State) (j : Nat) (ws : List Word) : (s.outWriteAll j ws).encInfo = s.encInfo := by
  induction ws generalizing s j with
  | nil => rfl
  | cons w ws ih => simp [State.outWriteAll, ih]
@[simp] theorem State.outWriteAll_result (s : State) (j : Nat) (ws : List Word) : (s.outWriteAll j ws).result = s.result := by
  induction ws generalizing s j with
  | nil => rfl
  | cons w ws ih => simp [State.outWriteAll, ih]
@[simp] theorem State.outWriteAll_block0 (s : State) (j : Nat) (ws : List Word) : (s.outWriteAll j ws).block0 = s.block0 := by
  induction ws generalizing s j with
  | nil => rfl
  | cons w ws ih => simp [State.outWriteAll, ih]
@[simp] theorem State.outWriteAll_block1 (s : State) (j : Nat) (ws : List Word) : (s.outWriteAll j ws).block1 = s.block1 := by
  induction ws generalizing s j with
  | nil => rfl
  | cons w ws ih => simp [State.outWriteAll, ih]
@[simp] theorem State.outWriteAll_seq (s : State) (j : Nat) (ws : List Word) : (s.outWriteAll j ws).seq = s.seq := by
  induction ws generalizing s j with
  | nil => rfl
  | cons w ws ih => simp [State.outWriteAll, ih]
@[simp] theorem State.outWriteAll_sc (s : State) (j : Nat) (ws : List Word) : (s.outWriteAll j ws).sc = s.sc := by
  induction ws generalizing s j with
  | nil => rfl
  | cons w ws ih => simp [State.outWriteAll, ih]
@[simp] theorem State.outWriteAll_epoch (s : State) (j : Nat) (ws : List Word) : (s.outWriteAll j ws).epoch = s.epoch := by
  induction ws generalizing s j with
  | nil => rfl
  | cons w ws ih => simp [State.outWriteAll, ih]
@[simp] theorem State.outWriteAll_draws (s : State) (j : Nat) (ws : List Word) : (s.outWriteAll j ws).draws = s.draws := by
  induction ws generalizing s j with
  | nil => rfl
  | cons w ws ih => simp [State.outWriteAll, ih]
@[simp] theorem State.outWriteAll_script (s : State) (j : Nat) (ws : List Word) : (s.outWriteAll j ws).script = s.script := by
  induction ws generalizing s j with
  | nil => rfl
  | cons w ws ih => simp [State.outWriteAll, ih]
@[simp] theorem State.outWriteAll_readLog (s : State) (j : Nat) (ws : List Word) : (s.outWriteAll j ws).readLog = s.readLog := by
  induction ws generalizing s j with
  | nil => rfl
  | cons w ws ih => simp [State.outWriteAll, ih]

/-! ### The block a state names, under the updates that keep both -/

@[simp] theorem State.finish_block (s : State) (c : ErrCode) (sl : Slot) : (s.finish c).block sl = s.block sl := by
  cases sl <;> rfl
@[simp] theorem State.complete_block (s : State) (sl : Slot) : s.complete.block sl = s.block sl := by cases sl <;> rfl
@[simp] theorem State.raiseError_block (s : State) (c : ErrCode) (sl : Slot) :
    (s.raiseError c).block sl = s.block sl := by cases sl <;> rfl
@[simp] theorem State.finishResult_block (s : State) (v : Word) (sl : Slot) :
    (s.finishResult v).block sl = s.block sl := by cases sl <;> rfl
@[simp] theorem State.issue_block (s : State) (w : Word) (sl : Slot) : (s.issue w).block sl = s.block sl := by
  cases sl <;> rfl
@[simp] theorem State.outWriteAll_block (s : State) (j : Nat) (ws : List Word) (sl : Slot) :
    (s.outWriteAll j ws).block sl = s.block sl := by
  cases sl <;> simp [State.block]

/-! ### The operands of a command -/

@[simp] theorem State.issue_operands (s : State) (w : Word) : (s.issue w).operands = s.live := rfl
@[simp] theorem State.operands_idle (s : State) (h : s.seq = .idle) : s.operands = s.live := by
  simp [State.operands, h]
@[simp] theorem State.operands_busy (s : State) (w : Word) (a : Args) (h : s.seq = .busy w a) : s.operands = a := by
  simp [State.operands, h]

end Sys2Proof.Machine
end

