-- ==== Sys2Proof/Laws/Encoder.lean ====
section
/-! SUPPORT. The stages of the encoder pipeline: what each leaves in each field of the scratch, and the shape it keeps. -/

namespace Sys2Proof.Machine

/-! ### LoadValues -/

@[simp] theorem gatherAddrs_length (a b c : Int) : (gatherAddrs a b c).length = 16 := by simp [gatherAddrs]

/-- LoadValues answers the 16 samples exactly when every address is in bounds (42_encoder.md R162). -/
theorem loadValues_eq_some {s : State} {l : List Word} (h : loadValues s = some l) :
    (∀ a ∈ s.gatherList, srcAddrOk s a = true) ∧ l = s.gatherList.map (sampleAt s) := by
  unfold loadValues at h
  split at h
  · next h1 => exact ⟨List.all_eq_true.1 h1, by simpa using h.symm⟩
  · cases h

theorem loadValues_length {s : State} {l : List Word} (h : loadValues s = some l) : l.length = 16 := by
  rw [(loadValues_eq_some h).2]; simp [State.gatherList]

/-- LoadValues answers none exactly when some address is out of bounds. -/
theorem loadValues_eq_none {s : State} (h : loadValues s = none) : ∃ a ∈ s.gatherList, srcAddrOk s a = false := by
  unfold loadValues at h
  split at h
  · cases h
  · next h1 => simpa [List.all_eq_true] using h1

/-- Everything an ENCODE can do: the missing buffer, or the pipeline on the 16 samples. -/
theorem encodeChannel_cases {ch : Channel} {slot : Slot} {s t : State} (h : encodeChannel ch slot s = .next t) :
    (srcValid s.operands.bufcfg = false ∧ t = s.raiseError .missingArgument) ∨
      (srcValid s.operands.bufcfg = true ∧ ∃ samples, loadValues s = some samples ∧
        t = s.finishEncode ch slot (s.encodeScratch ch samples)) := by
  unfold encodeChannel at h
  split at h
  · next h1 =>
    split at h
    · next samples h2 => exact .inr ⟨h1, samples, h2, by simpa using h.symm⟩
    · cases h
  · next h1 => exact .inl ⟨by simpa using h1, by simpa using h.symm⟩

/-! ### The stages, field by field -/

@[simp] theorem scanMinMax_samples (ch : Channel) (sc : Scratch) :
    (scanMinMax ch sc).samples = sc.samples.map (fun v => clampTo v (domLo ch) domHi) := rfl
@[simp] theorem scanMinMax_steps (ch : Channel) (sc : Scratch) : (scanMinMax ch sc).steps = sc.steps := rfl
@[simp] theorem chooseScheme_samples (ch : Channel) (sc : Scratch) : (chooseScheme ch sc).samples = sc.samples := rfl
@[simp] theorem chooseScheme_min (ch : Channel) (sc : Scratch) : (chooseScheme ch sc).min = sc.min := rfl
@[simp] theorem chooseScheme_max (ch : Channel) (sc : Scratch) : (chooseScheme ch sc).max = sc.max := rfl
@[simp] theorem chooseScheme_steps (ch : Channel) (sc : Scratch) : (chooseScheme ch sc).steps = sc.steps := rfl
@[simp] theorem initialBracket_samples (ch : Channel) (sc : Scratch) :
    (initialBracket ch sc).samples = sc.samples := by unfold initialBracket; split <;> rfl
@[simp] theorem initialBracket_n (ch : Channel) (sc : Scratch) : (initialBracket ch sc).n = sc.n := by
  unfold initialBracket; split <;> simp_all
@[simp] theorem initialBracket_steps (ch : Channel) (sc : Scratch) :
    (initialBracket ch sc).steps = sc.steps := by unfold initialBracket; split <;> rfl
@[simp] theorem applySums_samples (ch : Channel) (sc : Scratch) (a : Sums) :
    (applySums ch sc a).samples = sc.samples := rfl
@[simp] theorem applySums_n (ch : Channel) (sc : Scratch) (a : Sums) : (applySums ch sc a).n = sc.n := rfl
@[simp] theorem applySums_iter (ch : Channel) (sc : Scratch) (a : Sums) :
    (applySums ch sc a).iter = sc.iter + 1 := rfl
@[simp] theorem applySums_steps (ch : Channel) (sc : Scratch) (a : Sums) :
    (applySums ch sc a).steps = gridSteps ch sc.n sc.x sc.y := rfl
@[simp] theorem clampEnds_samples (ch : Channel) (sc : Scratch) : (clampEnds ch sc).samples = sc.samples := rfl
@[simp] theorem clampEnds_n (ch : Channel) (sc : Scratch) : (clampEnds ch sc).n = sc.n := rfl
@[simp] theorem clampEnds_iter (ch : Channel) (sc : Scratch) : (clampEnds ch sc).iter = sc.iter := rfl
@[simp] theorem clampEnds_steps (ch : Channel) (sc : Scratch) : (clampEnds ch sc).steps = sc.steps := rfl
@[simp] theorem quantize_samples (ch : Channel) (sc : Scratch) : (quantize ch sc).samples = sc.samples := rfl
@[simp] theorem quantize_n (ch : Channel) (sc : Scratch) : (quantize ch sc).n = sc.n := rfl
@[simp] theorem quantize_iter (ch : Channel) (sc : Scratch) : (quantize ch sc).iter = sc.iter := rfl
@[simp] theorem quantize_steps (ch : Channel) (sc : Scratch) : (quantize ch sc).steps = sc.steps := rfl
@[simp] theorem buildPalette_samples (ch : Channel) (sc : Scratch) :
    (buildPalette ch sc).samples = sc.samples := rfl
@[simp] theorem buildPalette_n (ch : Channel) (sc : Scratch) : (buildPalette ch sc).n = sc.n := rfl
@[simp] theorem buildPalette_iter (ch : Channel) (sc : Scratch) : (buildPalette ch sc).iter = sc.iter := rfl
@[simp] theorem buildPalette_steps (ch : Channel) (sc : Scratch) : (buildPalette ch sc).steps = sc.steps := rfl
@[simp] theorem findClosest_samples (sc : Scratch) : (findClosest sc).samples = sc.samples := rfl
@[simp] theorem findClosest_n (sc : Scratch) : (findClosest sc).n = sc.n := rfl
@[simp] theorem findClosest_iter (sc : Scratch) : (findClosest sc).iter = sc.iter := rfl
@[simp] theorem findClosest_steps (sc : Scratch) : (findClosest sc).steps = sc.steps := rfl
@[simp] theorem findClosest_pal (sc : Scratch) : (findClosest sc).pal = sc.pal := rfl
@[simp] theorem findClosest_idx (sc : Scratch) : (findClosest sc).idx = sc.samples.map (closest sc.pal) := rfl

/-! ### Shapes -/

/-- STEPS has 8 entries (42_encoder.md R171). -/
@[simp] theorem gridSteps_length (ch : Channel) (n : Scheme) (x y : Word) : (gridSteps ch n x y).length = 8 := by
  cases n <;> simp [gridSteps, gridC, gridD]

/-- PAL has 8 entries (41_palette.md R135, R136). -/
@[simp] theorem palF_length (b : Block) (ch : Channel) : (palF b ch).length = 8 := by
  simp only [palF, palFOf]
  cases schemeOf (epValue b .e0 ch) (epValue b .e1 ch) <;> rfl

/-- The integer palette has 8 entries (41_palette.md R132, R133). -/
@[simp] theorem palInt_length (b : Block) (ch : Channel) : (palInt b ch).length = 8 := by
  simp only [palInt, palIntOf]; split <;> rfl

@[simp] theorem palIntWords_length (b : Block) (ch : Channel) : (palIntWords b ch).length = 8 := by
  simp [palIntWords]

/-- The scan answers the best slot so far or a slot it scanned (42_encoder.md R180). -/
theorem closestFrom_lt (p : Word) (es : List Word) (k best : Nat) (bd : Word) (m : Nat) (hb : best < m)
    (hk : k + es.length ≤ m) : closestFrom p es k best bd < m := by
  induction es generalizing k best bd with
  | nil => exact hb
  | cons e es ih =>
    simp only [List.length_cons] at hk
    simp only [closestFrom]
    split
    · exact ih (k + 1) k _ (by omega) (by omega)
    · exact ih (k + 1) best _ hb (by omega)

theorem closest_lt (pal : List Word) (p : Word) (h : pal.length = 8) : closest pal p < 8 :=
  closestFrom_lt p pal.tail 1 0 _ 8 (by omega) (by simp [h])

/-- The Newton loop keeps the samples and the mode, and counts at most one iteration per round (42_encoder.md R169). -/
theorem newtonLoop_samples (ch : Channel) (k : Nat) (sc : Scratch) : (newtonLoop ch k sc).samples = sc.samples := by
  induction k generalizing sc with
  | zero => rfl
  | succ k ih =>
    simp only [newtonLoop]
    split
    · rfl
    · split
      · rfl
      · rw [ih]; rfl

theorem newtonLoop_n (ch : Channel) (k : Nat) (sc : Scratch) : (newtonLoop ch k sc).n = sc.n := by
  induction k generalizing sc with
  | zero => rfl
  | succ k ih =>
    simp only [newtonLoop]
    split
    · rfl
    · split
      · rfl
      · rw [ih]; rfl

theorem newtonLoop_iter_le (ch : Channel) (k : Nat) (sc : Scratch) : (newtonLoop ch k sc).iter ≤ sc.iter + k := by
  induction k generalizing sc with
  | zero => simp [newtonLoop]
  | succ k ih =>
    simp only [newtonLoop]
    split
    · omega
    · split
      · simp only [applySums_iter]; omega
      · have := ih (applySums ch sc (iterationSums ch sc))
        simp only [applySums_iter] at this; omega

theorem newtonLoop_steps_length (ch : Channel) (k : Nat) (sc : Scratch) (h : sc.steps.length = 8) :
    (newtonLoop ch k sc).steps.length = 8 := by
  induction k generalizing sc with
  | zero => exact h
  | succ k ih =>
    simp only [newtonLoop]
    split
    · exact h
    · split
      · simp
      · exact ih _ (by simp)

/-- One round of the loop, said once (42_encoder.md R169): it stops before the body, after it, or goes on. -/
theorem newtonLoop_succ (ch : Channel) (k : Nat) (sc : Scratch) :
    newtonLoop ch (k + 1) sc =
      if rangeStop sc then sc
      else if gradientStop (iterationSums ch sc) then applySums ch sc (iterationSums ch sc)
      else newtonLoop ch k (applySums ch sc (iterationSums ch sc)) := rfl

end Sys2Proof.Machine
end

