-- ==== Sys2Proof/Laws/Memory.lean ====
section
/-! SUPPORT. Memory: a read after a write, every other address untouched, the canonical form kept. -/

namespace Sys2Proof.Machine

@[simp] theorem Memory.readByte?_nil (a : Nat) : Memory.readByte? [] a = none := rfl

theorem Memory.readByte?_cons (c : Host.Cell) (m : Memory) (a : Nat) :
    Memory.readByte? (c :: m) a = if c.1 = a then some c.2 else m.readByte? a := rfl

/-- A write and a read at any two addresses. -/
theorem Memory.readByte?_writeByte (m : Memory) (a a' : Nat) (b : Byte) :
    (m.writeByte a b).readByte? a' = if a' = a then some b else m.readByte? a' := by
  induction m with
  | nil => simp [Memory.writeByte, Memory.readByte?, eq_comm]
  | cons c m ih =>
    simp only [Memory.writeByte]
    split
    · simp [Memory.readByte?_cons, eq_comm]
    · split
      · next h => subst h; simp only [Memory.readByte?_cons]; grind
      · simp only [Memory.readByte?_cons, ih]; grind

/-- A write lists the address written and keeps every other. -/
theorem Memory.mem_writeByte {m : Memory} {a : Nat} {b : Byte} {c : Host.Cell} (h : c ∈ m.writeByte a b) :
    c = (a, b) ∨ c ∈ m := by
  induction m with
  | nil => simpa [Memory.writeByte] using h
  | cons d m ih =>
    simp only [Memory.writeByte] at h
    split at h
    · simpa using h
    · split at h
      · rcases List.mem_cons.1 h with h | h
        · exact .inl h
        · exact .inr (List.mem_cons_of_mem _ h)
      · rcases List.mem_cons.1 h with h | h
        · exact .inr (h ▸ List.mem_cons_self ..)
        · exact (ih h).imp id (List.mem_cons_of_mem _)

/-- A write keeps the canonical form. -/
theorem Memory.wf_writeByte {m : Memory} (hm : m.wf) (a : Nat) (b : Byte) : (m.writeByte a b).wf := by
  induction m with
  | nil => simp [Memory.writeByte, Memory.wf]
  | cons c m ih =>
    simp only [Memory.wf, List.map_cons, List.pairwise_cons] at hm ih ⊢
    have hlt : ∀ k ∈ m.map Prod.fst, c.1 < k := hm.1
    simp only [Memory.writeByte]
    split
    · next h =>
      simp only [List.map_cons, List.pairwise_cons, List.mem_cons]
      refine ⟨?_, hlt, hm.2⟩
      rintro k (rfl | hk)
      · exact h
      · exact lt_trans h (hlt k hk)
    · split
      · next h => subst h; exact List.pairwise_cons.2 ⟨hlt, hm.2⟩
      · next h1 h2 =>
        refine List.pairwise_cons.2 ⟨?_, ih hm.2⟩
        intro k hk
        obtain ⟨d, hd, rfl⟩ := List.mem_map.1 hk
        rcases Memory.mem_writeByte hd with rfl | hd
        · dsimp only; omega
        · exact hlt _ (List.mem_map_of_mem hd)

theorem Memory.wf_writeWord {m : Memory} (hm : m.wf) (o : Nat) (w : Word) : (m.writeWord o w).wf :=
  Memory.wf_writeByte (Memory.wf_writeByte (Memory.wf_writeByte (Memory.wf_writeByte hm _ _) _ _) _ _) _ _

/-- A word write and a byte read at any address. -/
theorem Memory.readByte?_writeWord (m : Memory) (o a : Nat) (w : Word) :
    (m.writeWord o w).readByte? a =
      if a = o then some (byteOf w 0) else if a = o + 1 then some (byteOf w 1)
      else if a = o + 2 then some (byteOf w 2) else if a = o + 3 then some (byteOf w 3) else m.readByte? a := by
  simp only [Memory.writeWord, Memory.readByte?_writeByte]
  grind

theorem Memory.readByte?_writeWord_outside (m : Memory) (o a : Nat) (w : Word) (h : a < o ∨ o + 4 ≤ a) :
    (m.writeWord o w).readByte? a = m.readByte? a := by
  rw [Memory.readByte?_writeWord]; grind

/-- What a word write lists: the four bytes and what was there. -/
theorem Memory.mem_writeWord {m : Memory} {o : Nat} {w : Word} {c : Host.Cell} (h : c ∈ m.writeWord o w) :
    (o ≤ c.1 ∧ c.1 < o + 4) ∨ c ∈ m := by
  rcases Memory.mem_writeByte h with rfl | h
  · left; dsimp only; omega
  rcases Memory.mem_writeByte h with rfl | h
  · left; dsimp only; omega
  rcases Memory.mem_writeByte h with rfl | h
  · left; dsimp only; omega
  rcases Memory.mem_writeByte h with rfl | h
  · left; dsimp only; omega
  exact .inr h

/-- Little-endian bytes make up the word they came from (20_memory.md R54). -/
@[simp] theorem wordOfBytes_byteOf (w : Word) :
    wordOfBytes (byteOf w 0) (byteOf w 1) (byteOf w 2) (byteOf w 3) = w := by
  apply BitVec.eq_of_getLsbD_eq
  intro i hi
  simp only [wordOfBytes, byteOf]
  erw [BitVec.getLsbD_append, BitVec.getLsbD_append, BitVec.getLsbD_append]
  simp only [BitVec.getLsbD_extractLsb']
  split
  · simp [*]
  · split
    · simp only [show i - 8 < 8 by assumption, decide_true, Bool.true_and]; congr 1; omega
    · split
      · simp only [show i - 8 - 8 < 8 by assumption, decide_true, Bool.true_and]; congr 1; omega
      · simp only [show i - 8 - 8 - 8 < 8 by omega, decide_true, Bool.true_and]; congr 1; omega

/-- Outside the bytes an OUT write stores, every byte reads as before. -/
theorem State.outWrite_readByte (s : State) (j : Nat) (w : Word) (a : Nat)
    (h : a < outOffset j ∨ outOffset j + 4 ≤ a) : (s.outWrite j w).readByte a = s.readByte a := by
  show ((s.mem.writeWord (outOffset j) w).readByte? a).getD _ = _
  rw [Memory.readByte?_writeWord_outside _ _ _ _ h]; rfl

/-- A word written to OUT reads back. -/
theorem State.outWrite_readWord_same (s : State) (j : Nat) (w : Word) :
    (s.outWrite j w).readWord (outOffset j) = w := by
  simp [State.readWord, State.readByte, State.outWrite, Memory.readByte?_writeWord]

/-- Every other word of OUT reads as before. -/
theorem State.outWrite_readWord_ne (s : State) (j k : Nat) (w : Word) (h : k ≠ j) :
    (s.outWrite j w).readWord (outOffset k) = s.readWord (outOffset k) := by
  simp only [State.readWord]
  rw [State.outWrite_readByte, State.outWrite_readByte, State.outWrite_readByte, State.outWrite_readByte]
  all_goals simp only [outOffset]; omega

/-- Outside the bytes a run of OUT writes stores, every byte reads as before. -/
theorem State.outWriteAll_readByte (s : State) (j : Nat) (ws : List Word) (a : Nat)
    (h : a < outOffset j ∨ outOffset j + 4 * ws.length ≤ a) : (s.outWriteAll j ws).readByte a = s.readByte a := by
  induction ws generalizing s j with
  | nil => rfl
  | cons w ws ih =>
    simp only [State.outWriteAll, List.length_cons] at h ⊢
    rw [ih, State.outWrite_readByte]
    all_goals simp only [outOffset] at h ⊢; omega

theorem State.outWriteAll_readWord_before (s : State) (j : Nat) (ws : List Word) (k : Nat) (h : k < j) :
    (s.outWriteAll j ws).readWord (outOffset k) = s.readWord (outOffset k) := by
  simp only [State.readWord]
  rw [State.outWriteAll_readByte, State.outWriteAll_readByte, State.outWriteAll_readByte, State.outWriteAll_readByte]
  all_goals simp only [outOffset]; omega

/-- A run of OUT writes stores its words in order. -/
theorem State.outWriteAll_readWord (s : State) (j : Nat) (ws : List Word) (k : Nat) (h : k < ws.length) :
    (s.outWriteAll j ws).readWord (outOffset (j + k)) = ws[k] := by
  induction ws generalizing s j k with
  | nil => simp at h
  | cons w ws ih =>
    cases k with
    | zero =>
      simp only [State.outWriteAll, Nat.add_zero, List.getElem_cons_zero]
      rw [State.outWriteAll_readWord_before _ _ _ _ (Nat.lt_succ_self j), State.outWrite_readWord_same]
    | succ k =>
      simp only [State.outWriteAll, List.getElem_cons_succ]
      have := ih (s.outWrite j w) (j + 1) k (by simpa using h)
      rwa [show j + 1 + k = j + (k + 1) by omega] at this

/-- A run of OUT writes keeps the canonical form, and lists nothing but its bytes and what was there. -/
theorem State.outWriteAll_wf (s : State) (j : Nat) (ws : List Word) (h : s.mem.wf) : (s.outWriteAll j ws).mem.wf := by
  induction ws generalizing s j with
  | nil => exact h
  | cons w ws ih => exact ih _ _ (Memory.wf_writeWord h _ _)

theorem State.mem_outWriteAll (s : State) (j : Nat) (ws : List Word) {c : Host.Cell}
    (h : c ∈ (s.outWriteAll j ws).mem) :
    (outOffset j ≤ c.1 ∧ c.1 < outOffset j + 4 * ws.length) ∨ c ∈ s.mem := by
  induction ws generalizing s j with
  | nil => exact .inr h
  | cons w ws ih =>
    simp only [List.length_cons]
    rcases ih _ _ h with h | h
    · left; simp only [outOffset] at h ⊢; omega
    · rcases Memory.mem_writeWord h with h | h
      · left; simp only [outOffset] at h ⊢; omega
      · exact .inr h

/-- The memory right after reset is in canonical form. -/
theorem reset_mem_wf : State.reset.mem.wf := List.Pairwise.nil

end Sys2Proof.Machine
end

