-- ==== Sys2Proof/Laws/Status.lean ====
section
/-! SUPPORT. The fields of STATUS and ENC_INFO after each way the core changes them (10_state.md R25 to R31). -/

namespace Sys2Proof.Machine

/-- The OVERRUN bit alone. -/
theorem and_four_eq (st : Word) : st &&& 0x4 = if statusOverrun st then 0x4 else 0 := by
  apply BitVec.eq_of_getLsbD_eq
  intro i hi
  have h4 : ∀ i < 32, (0x4 : Word).getLsbD i = decide (i = 2) := by decide
  rw [BitVec.getLsbD_and, h4 i hi]
  by_cases h2 : i = 2
  · subst h2; cases h : statusOverrun st <;> simp_all [statusOverrun]
  · have h0 : ((if statusOverrun st then 0x4 else 0 : Word)).getLsbD i = false := by
      cases statusOverrun st
      · exact BitVec.getLsbD_zero
      · exact (h4 i hi).trans (by simp [h2])
    rw [h0]; simp [h2]

/-- The whole word of STATUS at completion, by cases on OVERRUN. -/
theorem statusAtCompletion_eq (st : Word) (c : ErrCode) :
    statusAtCompletion st c = BitVec.ofNat 32 (2 + 16 * c.code + if statusOverrun st then 4 else 0) := by
  rw [statusAtCompletion, and_four_eq]
  cases statusOverrun st <;> cases c <;> decide

@[simp] theorem statusBusy_atCompletion (st : Word) (c : ErrCode) : statusBusy (statusAtCompletion st c) = false := by
  rw [statusAtCompletion_eq]; cases statusOverrun st <;> cases c <;> decide

@[simp] theorem statusDone_atCompletion (st : Word) (c : ErrCode) : statusDone (statusAtCompletion st c) = true := by
  rw [statusAtCompletion_eq]; cases statusOverrun st <;> cases c <;> decide

@[simp] theorem statusErr_atCompletion (st : Word) (c : ErrCode) : statusErr (statusAtCompletion st c) = c.code := by
  rw [statusAtCompletion_eq]; cases statusOverrun st <;> cases c <;> decide

@[simp] theorem statusOverrun_atCompletion (st : Word) (c : ErrCode) :
    statusOverrun (statusAtCompletion st c) = statusOverrun st := by
  rw [statusAtCompletion_eq]; cases statusOverrun st <;> cases c <;> decide

@[simp] theorem reserved_atCompletion (st : Word) (c : ErrCode) : statusAtCompletion st c &&& ~~~statusMask = 0 := by
  rw [statusAtCompletion_eq]; cases statusOverrun st <;> cases c <;> decide

@[simp] theorem statusBusy_atIssue : statusBusy statusAtIssue = true := by decide
@[simp] theorem statusDone_atIssue : statusDone statusAtIssue = false := by decide
@[simp] theorem statusOverrun_atIssue : statusOverrun statusAtIssue = false := by decide
@[simp] theorem statusErr_atIssue : statusErr statusAtIssue = 0 := by decide
@[simp] theorem reserved_atIssue : statusAtIssue &&& ~~~statusMask = 0 := by decide

theorem getLsbD_atOverrun (st : Word) (i : Nat) :
    (statusAtOverrun st).getLsbD i = (st.getLsbD i || decide (i = 2)) := by
  have h4 : (0x4 : Word).getLsbD i = decide (i = 2) := by
    by_cases h : i < 32
    · exact (by decide : ∀ i < 32, (0x4 : Word).getLsbD i = decide (i = 2)) i h
    · rw [BitVec.getLsbD_of_ge _ _ (by omega)]; symm; simpa using by omega
  rw [statusAtOverrun, BitVec.getLsbD_or, h4]

@[simp] theorem statusBusy_atOverrun (st : Word) : statusBusy (statusAtOverrun st) = statusBusy st := by
  rw [statusBusy, statusBusy, getLsbD_atOverrun]; simp

@[simp] theorem statusDone_atOverrun (st : Word) : statusDone (statusAtOverrun st) = statusDone st := by
  rw [statusDone, statusDone, getLsbD_atOverrun]; simp

@[simp] theorem statusOverrun_atOverrun (st : Word) : statusOverrun (statusAtOverrun st) = true := by
  rw [statusOverrun, getLsbD_atOverrun]; simp

/-- ERR is bits 7:4. -/
theorem statusErr_eq (st : Word) : statusErr st = (st.extractLsb' 4 4).toNat := by
  simp [statusErr, BitVec.extractLsb'_toNat, Nat.shiftRight_eq_div_pow]

@[simp] theorem statusErr_atOverrun (st : Word) : statusErr (statusAtOverrun st) = statusErr st := by
  rw [statusErr_eq, statusErr_eq]
  congr 1
  apply BitVec.eq_of_getLsbD_eq
  intro i hi
  rw [BitVec.getLsbD_extractLsb', BitVec.getLsbD_extractLsb', getLsbD_atOverrun]
  simp [show ¬ 4 + i = 2 by omega]

theorem reserved_atOverrun (st : Word) : statusAtOverrun st &&& ~~~statusMask = st &&& ~~~statusMask := by
  apply BitVec.eq_of_getLsbD_eq
  intro i hi
  rw [BitVec.getLsbD_and, BitVec.getLsbD_and, getLsbD_atOverrun]
  by_cases h : i = 2
  · subst h; rw [show (~~~statusMask).getLsbD 2 = false by decide, Bool.and_false, Bool.and_false]
  · simp [h]

/-- The fields of ENC_INFO (10_state.md R31) in the word of 42_encoder.md R184, for every iteration count. -/
theorem encInfoWord_toNat (iters : Nat) (six signed : Bool) :
    (encInfoWord iters six signed).toNat = iters % 16 + 16 * six.toNat + 32 * signed.toNat + 64 := by
  rw [encInfoWord, BitVec.toNat_ofNat, Nat.mod_eq_of_lt]
  have := Bool.toNat_le six; have := Bool.toNat_le signed; omega

theorem encInfoWord_iters (iters : Nat) (six signed : Bool) :
    (encInfoWord iters six signed).toNat % 16 = iters % 16 := by
  rw [encInfoWord_toNat]; omega

theorem encInfoWord_valid (iters : Nat) (six signed : Bool) : (encInfoWord iters six signed).getLsbD 6 = true := by
  have h : ∀ n < 16, ∀ a b : Bool, (encInfoWord n a b).getLsbD 6 = true := by decide
  have := h (iters % 16) (Nat.mod_lt _ (by omega)) six signed
  rwa [show encInfoWord (iters % 16) six signed = encInfoWord iters six signed by simp [encInfoWord]] at this

theorem encInfoWord_reserved (iters : Nat) (six signed : Bool) :
    encInfoWord iters six signed &&& ~~~encInfoMask = 0 := by
  have h : ∀ n < 16, ∀ a b : Bool, encInfoWord n a b &&& ~~~encInfoMask = 0 := by decide
  have := h (iters % 16) (Nat.mod_lt _ (by omega)) six signed
  rwa [show encInfoWord (iters % 16) six signed = encInfoWord iters six signed by simp [encInfoWord]] at this

end Sys2Proof.Machine
end

