-- ==== Sys2Proof/Laws/Ops.lean ====
section
/-! SUPPORT. One lemma per shared operation: what it can do. -/

namespace Sys2Proof.Machine

/-! ### Completion -/

theorem finish_completed (s : State) (c : ErrCode) : CompletedWith c s (s.finish c) := by
  constructor <;> simp

theorem complete_completed (s : State) : CompletedWith .none s s.complete := finish_completed s .none

theorem raiseError_completed (s : State) (c : ErrCode) : CompletedWith c s (s.raiseError c) := finish_completed s c

/-- Completion is read off a state's sequencer and STATUS alone. -/
theorem CompletedWith.congr {c : ErrCode} {s s' t t' : State} (h : CompletedWith c s t) (hs : s'.status = s.status)
    (ht : t'.status = t.status) (hq : t'.seq = t.seq) : CompletedWith c s' t' :=
  ⟨hq.trans h.seq, ht ▸ h.busy, ht ▸ h.done, ht ▸ h.err, by rw [ht, hs]; exact h.overrun, ht ▸ h.reserved⟩

theorem KeepsOperands.refl (s : State) : KeepsOperands s s := ⟨rfl, rfl, rfl, rfl, rfl, rfl⟩

/-- A byte reads the same where the memory and the epoch are the same. -/
theorem readByte_congr {s t : State} (hm : t.mem = s.mem) (he : t.epoch = s.epoch) (a : Nat) :
    t.readByte a = s.readByte a := by simp [State.readByte, hm, he]

/-- `raise Error(code)` changes nothing but STATUS and the sequencer (60_exceptions.md R222). -/
theorem raiseError_keeps (s : State) (c : ErrCode) : KeepsAll s (s.raiseError c) :=
  ⟨⟨rfl, rfl, rfl, rfl, rfl, rfl⟩, rfl, rfl, fun sl => by simp, rfl, fun a => readByte_congr rfl rfl a⟩

theorem complete_keeps (s : State) : KeepsAll s s.complete := raiseError_keeps s .none

theorem finishResult_spec (s : State) (v : Word) :
    (s.finishResult v).result = v ∧ CompletedWith .none s (s.finishResult v) ∧ KeepsAllButResult s (s.finishResult v) :=
  ⟨rfl, (complete_completed { s with result := v }).congr rfl rfl rfl,
    ⟨⟨rfl, rfl, rfl, rfl, rfl, rfl⟩, rfl, fun sl => by simp, rfl, fun a => readByte_congr rfl rfl a⟩⟩

theorem otherSlot_ne (sl : Slot) : otherSlot sl ≠ sl := by cases sl <;> decide

theorem finishBlock_spec (s : State) (sl : Slot) (b : Block) :
    (s.finishBlock sl b).block sl = b ∧ CompletedWith .none s (s.finishBlock sl b) ∧
      KeepsAllButBlock sl s (s.finishBlock sl b) := by
  refine ⟨by simp, (complete_completed (s.setBlock sl b)).congr (by simp) rfl rfl, ⟨⟨?_, ?_, ?_, ?_, ?_, ?_⟩, ?_, ?_, ?_, ?_, ?_⟩⟩
  all_goals try simp
  · exact State.finishBlock_block_ne _ _ _ _ (otherSlot_ne sl)
  · exact fun a => readByte_congr (by simp) (by simp) a

theorem finishEncode_spec (s : State) (ch : Channel) (sl : Slot) (sc : Scratch) :
    (s.finishEncode ch sl sc).block sl = encodedBlock sc ∧
      (s.finishEncode ch sl sc).encInfo = encInfoWord sc.iter (sc.n == Scheme.six) ch.bit ∧
      (s.finishEncode ch sl sc).sc = sc ∧
      CompletedWith .none s (s.finishEncode ch sl sc) ∧ KeepsAllButEncode sl s (s.finishEncode ch sl sc) := by
  refine ⟨by simp, by simp, by simp, ?_, ⟨⟨?_, ?_, ?_, ?_, ?_, ?_⟩, ?_, ?_, ?_⟩⟩
  · cases sl <;> exact (complete_completed s).congr rfl rfl rfl
  all_goals try simp
  · exact State.finishEncode_block_ne _ _ _ _ _ (otherSlot_ne sl)
  · exact fun a => readByte_congr (by simp) (by simp) a

theorem outWriteAll_complete_spec (s : State) (j : Nat) (ws : List Word) :
    (∀ k (h : k < ws.length), (s.outWriteAll j ws).complete.readWord (outOffset (j + k)) = ws[k]) ∧
      CompletedWith .none s (s.outWriteAll j ws).complete ∧
      KeepsAllButOut (outOffset j) (4 * ws.length) s (s.outWriteAll j ws).complete := by
  have hr : ∀ a, (s.outWriteAll j ws).complete.readByte a = (s.outWriteAll j ws).readByte a :=
    fun a => readByte_congr rfl rfl a
  refine ⟨fun k h => ?_, (complete_completed _).congr (by simp) rfl rfl,
    ⟨⟨?_, ?_, ?_, ?_, ?_, ?_⟩, ?_, ?_, ?_, ?_, fun a h => ?_⟩⟩
  · rw [← State.outWriteAll_readWord s j ws k h]; simp only [State.readWord, hr]
  all_goals try simp
  rw [hr, State.outWriteAll_readByte _ _ _ _ h]

/-! ### The bus -/

/-- Everything a host read can do (70_reset_and_hazards.md R258, R263; 20_memory.md R57, R58). -/
theorem hostRead_cases {s : State} {width : BusWidth} {addr : Nat} {t : State}
    (h : s.hostRead width addr = .next t) :
    (touchesWindow s.params width addr = false ∧ t = s) ∨
      (touchesWindow s.params width addr = true ∧ accessDefined s.params width addr = true ∧
        t = s.busRead addr (busTarget s.params (addr - s.params.coreBase))) := by
  unfold State.hostRead at h
  split at h
  · next h1 =>
    split at h
    · next h2 => exact .inr ⟨h1, h2, by simpa using h.symm⟩
    · cases h
  · next h1 => exact .inl ⟨by simpa using h1, by simpa using h.symm⟩

/-- Everything a host write can do (70_reset_and_hazards.md R257, R263; 20_memory.md R57, R58). -/
theorem hostWrite_cases {s : State} {width : BusWidth} {addr : Nat} {v : Word} {t : State}
    (h : s.hostWrite width addr v = .next t) :
    (touchesWindow s.params width addr = false ∧ t = s) ∨
      (touchesWindow s.params width addr = true ∧ accessDefined s.params width addr = true ∧
        t = s.busWrite v (busTarget s.params (addr - s.params.coreBase))) := by
  unfold State.hostWrite at h
  split at h
  · next h1 =>
    split at h
    · next h2 => exact .inr ⟨h1, h2, by simpa using h.symm⟩
    · cases h
  · next h1 => exact .inl ⟨by simpa using h1, by simpa using h.symm⟩

/-- A bus read changes only the read log and, for an unspecified word, the count of draws (20_memory.md R59). -/
theorem busRead_cases (s : State) (addr : Nat) (t : BusTarget) :
    ∃ v d, s.busRead addr t = { s with readLog := (addr, v) :: s.readLog, draws := d } := by
  unfold State.busRead
  split
  · exact ⟨_, _, rfl⟩
  · exact ⟨_, s.draws, rfl⟩

/-- A bus write while BUSY sets OVERRUN and does nothing else (70_reset_and_hazards.md R257). -/
theorem busWrite_busy (s : State) (v : Word) (t : BusTarget) (h : statusBusy s.status = true) :
    s.busWrite v t = { s with status := statusAtOverrun s.status } := by
  simp [State.busWrite, h]

theorem busWrite_idle (s : State) (v : Word) (t : BusTarget) (h : statusBusy s.status = false) :
    s.busWrite v t = s.targetWrite v t := by
  simp [State.busWrite, h]

/-- A SRC target is an existing SRC word (20_memory.md R51). -/
theorem busTarget_src {p : Params} {o j : Nat} (h : busTarget p o = .src j) : j < p.srcWords := by
  unfold busTarget at h
  split at h
  · split at h <;> cases h
  · split at h
    · split at h
      · next h1 => cases h; exact h1
      · cases h
    · split at h <;> cases h

/-- An OUT target is an existing OUT word (20_memory.md R51). -/
theorem busTarget_out {p : Params} {o j : Nat} (h : busTarget p o = .out j) : j < p.outWords := by
  unfold busTarget at h
  split at h
  · split at h <;> cases h
  · split at h
    · split at h <;> cases h
    · split at h
      · next h1 => cases h; exact h1
      · cases h

/-- Every register stands at its own offset (10_state.md R22, 20_memory.md R51). -/
theorem busTarget_reg (p : Params) (r : Reg) : busTarget p r.offset = .reg r := by
  cases r <;> simp [busTarget, Reg.offset, allRegs]

/-! ### One step -/

/-- A step with an empty script is the core's own (log 1). -/
theorem step_nil {s : State} (h : s.script = []) : step s = coreStep s := by simp [step, h]

/-- A step with a script is its first action, which leaves the script (log 1). -/
theorem step_cons {s : State} {a : HostAction} {rest : List HostAction} (h : s.script = a :: rest) :
    step s = act a { s with script := rest } := by simp [step, h]

/-- Everything the core's own step can do: nothing when idle; the decoded command; ILLEGAL_COMMAND. -/
theorem coreStep_cases {s t : State} (h : coreStep s = .next t) :
    (s.seq = .idle ∧ t = s) ∨
      (∃ w a i, s.seq = .busy w a ∧ decode w = .ok i ∧ exec i s = .next t) ∨
      (∃ w a e, s.seq = .busy w a ∧ decode w = .error e ∧ t = s.raiseError .illegalCommand) := by
  unfold coreStep at h
  split at h
  · next hq => exact .inl ⟨hq, by simpa using h.symm⟩
  · next w a hq =>
    split at h
    · next i hd => exact .inr (.inl ⟨w, a, i, hq, hd, h⟩)
    · next e hd => exact .inr (.inr ⟨w, a, e, hq, hd, by simpa using h.symm⟩)

/-- Everything one step can do: the core's step, or the first action of the script. -/
theorem step_cases {s t : State} (h : step s = .next t) :
    (s.script = [] ∧ coreStep s = .next t) ∨
      (∃ a rest, s.script = a :: rest ∧ act a { s with script := rest } = .next t) := by
  cases hs : s.script with
  | nil => exact .inl ⟨rfl, step_nil hs ▸ h⟩
  | cons a rest => exact .inr ⟨a, rest, rfl, step_cons hs ▸ h⟩

/-- The next step after withFetchWord runs the word (log 2). -/
theorem step_withFetchWord_nil (s : State) (nbits w : Nat) (h : s.script = []) :
    step (s.withFetchWord nbits w) = coreStep (s.withFetchWord nbits w) :=
  step_nil (by simp [State.withFetchWord, h])

end Sys2Proof.Machine
end

