-- ==== Sys2Proof/Machine/HostScript.lean ====
section
/-! DEFINITION. The host's side (30_encoding.md R78, R80): its statements, the pseudo-instructions as the statements they
expand to, and the run of a host program against the core. A run takes only the actions of 70_reset_and_hazards.md R263;
a program that waits tests what it reads, so which actions come depends on when the core completes. -/

namespace Sys2Proof.Machine

/-- `wr NAME, value`, NAME a register (30_encoding.md R78). -/
def wrReg (p : Params) (r : Reg) (v : Word) : HostAction := .write .w32 (p.coreBase + r.offset) v

/-- `wr SRC[j], value` (30_encoding.md R78). -/
def wrSrc (p : Params) (j : Nat) (v : Word) : HostAction := .write .w32 (p.coreBase + srcOffset j) v

/-- `wr OUT[j], value` (30_encoding.md R78). -/
def wrOut (p : Params) (j : Nat) (v : Word) : HostAction := .write .w32 (p.coreBase + outOffset j) v

/-- `rd NAME`, NAME a register (30_encoding.md R78). -/
def rdReg (p : Params) (r : Reg) : HostAction := .read .w32 (p.coreBase + r.offset)

/-- `rd SRC[j]` (30_encoding.md R78). -/
def rdSrc (p : Params) (j : Nat) : HostAction := .read .w32 (p.coreBase + srcOffset j)

/-- `rd OUT[j]` (30_encoding.md R78). -/
def rdOut (p : Params) (j : Nat) : HostAction := .read .w32 (p.coreBase + outOffset j)

/-- `cmd MNEMONIC operands` (30_encoding.md R78): `wr CMD, word` with the word of R77. -/
def issueCmd (p : Params) (i : Instr) : HostAction := wrReg p .cmd (encode i)

/-- A statement of a host program: one access (30_encoding.md R78), or the polling loop `wait` (R80). -/
inductive HostStmt where
  | access (a : HostAction)
  | wait
deriving DecidableEq, Repr

/-- `check` (30_encoding.md R80). -/
def checkStatus (p : Params) : List HostAction := [rdReg p .status]

/-- What `check` concludes from the STATUS it read (30_encoding.md R80): the command succeeded. -/
def commandSucceeded (status : Word) : Bool := statusErr status == 0

/-- `setsrc base, len` (30_encoding.md R80), `bufcfg` being the host's own copy of BUFCFG. -/
def setSrc (p : Params) (bufcfg base len : Word) : List HostAction :=
  [wrReg p .srcBase base, wrReg p .srcLen len, wrReg p .bufcfg (bufcfg ||| 1)]

/-- `setdst base, len` (30_encoding.md R80), `bufcfg` being the host's own copy of BUFCFG. -/
def setDst (p : Params) (bufcfg base len : Word) : List HostAction :=
  [wrReg p .dstBase base, wrReg p .dstLen len, wrReg p .bufcfg (bufcfg ||| 2)]

/-- The ENCODE of a channel format. -/
def encodeOf (ch : Channel) (slot : Slot) : Instr :=
  match ch with
  | .unsigned => .encodeU slot
  | .signed => .encodeS slot

/-- `encode.u` and `encode.s` (30_encoding.md R80). -/
def encodeProg (p : Params) (ch : Channel) (slot : Slot) (start rp cp : Word) : List HostStmt :=
  [.access (wrReg p .arg0 start), .access (wrReg p .arg1 rp), .access (wrReg p .arg2 cp),
    .access (issueCmd p (encodeOf ch slot)), .wait]

/-- `encode_bc5.u` and `encode_bc5.s` (30_encoding.md R80): the two channels of an interleaved source, each with a `wait`
of its own. -/
def encodeBc5Prog (p : Params) (ch : Channel) (start rp cp : Word) : List HostStmt :=
  encodeProg p ch .b0 start rp cp ++ encodeProg p ch .b1 (start + 1) rp cp

/-- `rdblock bS` (30_encoding.md R80). -/
def rdBlock (p : Params) : Slot → List HostAction
  | .b0 => [rdReg p .block0Lo, rdReg p .block0Hi]
  | .b1 => [rdReg p .block1Lo, rdReg p .block1Hi]

/-! ### The run of a host program -/

/-- What may come between two accesses of the host: the core completes (70_reset_and_hazards.md R255), or the platform
resets it (R251). -/
inductive GapEvent where
  | complete
  | reset
deriving DecidableEq, Repr

/-- The action of R263 that an event is. -/
def GapEvent.action : GapEvent → HostAction
  | .complete => .complete
  | .reset => .reset

/-- The access a statement performs: its own, or the `rd STATUS` of `wait` (30_encoding.md R80). -/
def HostStmt.action (p : Params) : HostStmt → HostAction
  | .access a => a
  | .wait => rdReg p .status

/-- The value the newest read returned, as STATUS, has BUSY = 1. -/
def lastReadBusy (s : State) : Bool :=
  match s.readLog with
  | [] => false
  | (_, v) :: _ => statusBusy v

/-- What is left of the program after a statement's access has given `t`: `wait` is repeated while the read returned
BUSY = 1 and ends when it returned BUSY = 0, whatever made it so (30_encoding.md R80). -/
def HostStmt.after (rest : List HostStmt) (t : State) : HostStmt → List HostStmt
  | .access _ => rest
  | .wait => if lastReadBusy t then .wait :: rest else rest

/-- The run of a host program on a schedule, which says for each access of the host, the polls of each `wait` among them,
what comes before it. It answers the state and what is left of the program: nothing when the program has ended
(70_reset_and_hazards.md R262), else what was still to do when the schedule did. -/
def runHost : List (List GapEvent) → List HostStmt → State → Host.Outcome (State × List HostStmt) Fault Refusal
  | [], prog, s => .next (s, prog)
  | _ :: _, [], s => .next (s, [])
  | evs :: sched, stmt :: rest, s =>
    match actAll (evs.map GapEvent.action ++ [stmt.action s.params]) s with
    | .next t => runHost sched (stmt.after rest t) t
    | .fault f => .fault f
    | .refused r => .refused r

end Sys2Proof.Machine
end

