-- ==== Sys2Proof/Laws/HostScript.lean ====
section
/-! SUPPORT. The run of a host program: it is a list of actions of 70_reset_and_hazards.md R263, `wait` polls while BUSY = 1
and ends at the first poll that returns BUSY = 0 (30_encoding.md R80). -/

namespace Sys2Proof.Machine

/-- Two lists of actions in a row. -/
theorem actAll_append (as bs : List HostAction) (s : State) :
    actAll (as ++ bs) s =
      match actAll as s with
      | .next t => actAll bs t
      | .fault f => .fault f
      | .refused r => .refused r := by
  induction as generalizing s with
  | nil => rfl
  | cons a as ih =>
    simp only [List.cons_append, actAll]
    cases act a s with
    | next t => exact ih t
    | fault f => rfl
    | refused r => rfl

/-- Everything the run of a host program can do is some list of actions. -/
theorem runHost_actAll (sched : List (List GapEvent)) (prog left : List HostStmt) (s u : State)
    (h : runHost sched prog s = .next (u, left)) : ∃ acts, actAll acts s = .next u := by
  induction sched generalizing prog s with
  | nil =>
    simp only [runHost, Host.Outcome.next.injEq, Prod.mk.injEq] at h
    exact ⟨[], by simp [actAll, h.1]⟩
  | cons evs sched ih =>
    cases prog with
    | nil =>
      simp only [runHost, Host.Outcome.next.injEq, Prod.mk.injEq] at h
      exact ⟨[], by simp [actAll, h.1]⟩
    | cons stmt rest =>
      simp only [runHost] at h
      split at h
      · next t ht =>
        obtain ⟨acts, ha⟩ := ih _ _ h
        exact ⟨_ ++ acts, by rw [actAll_append, ht]; exact ha⟩
      · cases h
      · cases h

/-- A read of STATUS returns STATUS, in every state (70_reset_and_hazards.md R258). -/
theorem act_rdStatus (s : State) :
    act (rdReg s.params .status) s =
      .next { s with readLog := (s.params.coreBase + 0x08, s.status &&& statusMask) :: s.readLog } := by
  have h1 : s.params.coreBase + 8 < s.params.coreBase + 12288 := by omega
  have h2 : s.params.coreBase < s.params.coreBase + 8 + 4 := by omega
  simp [act, rdReg, Reg.offset, State.hostRead, touchesWindow, accessDefined, BusWidth.bytes, h1, h2, busTarget, allRegs,
    State.busRead, unspecifiedWhileBusy, State.targetRead, State.regRead]

theorem statusBusy_masked (st : Word) : statusBusy (st &&& statusMask) = statusBusy st := by
  simp [statusBusy, statusMask]

/-- One poll of `wait`: the loop goes on exactly when BUSY = 1. -/
theorem runHost_wait (sched : List (List GapEvent)) (rest : List HostStmt) (s : State) :
    runHost ([] :: sched) (.wait :: rest) s =
      runHost sched (if statusBusy s.status then .wait :: rest else rest)
        { s with readLog := (s.params.coreBase + 0x08, s.status &&& statusMask) :: s.readLog } := by
  simp only [runHost, List.map_nil, List.nil_append, HostStmt.action, actAll, act_rdStatus, HostStmt.after, lastReadBusy,
    statusBusy_masked]

/-- A reset ends the loop at the next poll (70_reset_and_hazards.md R251). -/
theorem runHost_wait_reset (sched : List (List GapEvent)) (rest : List HostStmt) (s : State) :
    runHost ([.reset] :: sched) (.wait :: rest) s =
      runHost sched rest { s.resetEvent with readLog := (s.params.coreBase + 0x08, 0) :: s.readLog } := by
  have h : actAll [.reset, rdReg s.params .status] s =
      .next { s.resetEvent with readLog := (s.params.coreBase + 0x08, 0) :: s.readLog } := by
    have := act_rdStatus s.resetEvent
    simp only [actAll]
    rw [show act .reset s = .next s.resetEvent from rfl]
    simp only
    rw [show s.params = s.resetEvent.params from rfl, this]
    simp [State.resetEvent, State.resetWith, statusMask]
  simp only [runHost, List.map_cons, List.map_nil, GapEvent.action, List.cons_append, List.nil_append, HostStmt.action, h,
    HostStmt.after, lastReadBusy]
  rfl

end Sys2Proof.Machine
end

