-- ==== Sys2Proof/Laws/PerInstr.lean ====
section
/-! SUPPORT. Statements about every instruction, one lemma per constructor: the word of a command matches its row of
spec/opcode_table.json (30_encoding.md R72, R74). -/

namespace Sys2Proof.Laws

/-- The command's word, under the row's mask, is the row's match, and its fields are the command's. -/
def RowWord.Statement (i : Instr) : Prop := encode i &&& rowMask i = rowMatch i ∧ fieldsOf (encode i) = i.fields

theorem RowWord.nop : RowWord.Statement .nop := by unfold RowWord.Statement; decide
theorem RowWord.encodeU (slot : Slot) : RowWord.Statement (.encodeU slot) := by
  cases slot <;> unfold RowWord.Statement <;> decide
theorem RowWord.encodeS (slot : Slot) : RowWord.Statement (.encodeS slot) := by
  cases slot <;> unfold RowWord.Statement <;> decide
theorem RowWord.getEpU (slot : Slot) (ep : Ep) : RowWord.Statement (.getEpU slot ep) := by
  cases slot <;> cases ep <;> unfold RowWord.Statement <;> decide
theorem RowWord.getEpS (slot : Slot) (ep : Ep) : RowWord.Statement (.getEpS slot ep) := by
  cases slot <;> cases ep <;> unfold RowWord.Statement <;> decide
theorem RowWord.setEpU (slot : Slot) (ep : Ep) : RowWord.Statement (.setEpU slot ep) := by
  cases slot <;> cases ep <;> unfold RowWord.Statement <;> decide
theorem RowWord.setEpS (slot : Slot) (ep : Ep) : RowWord.Statement (.setEpS slot ep) := by
  cases slot <;> cases ep <;> unfold RowWord.Statement <;> decide
theorem RowWord.getIdx (slot : Slot) : RowWord.Statement (.getIdx slot) := by
  cases slot <;> unfold RowWord.Statement <;> decide
theorem RowWord.setIdx (slot : Slot) : RowWord.Statement (.setIdx slot) := by
  cases slot <;> unfold RowWord.Statement <;> decide
theorem RowWord.getIdxXY (slot : Slot) : RowWord.Statement (.getIdxXY slot) := by
  cases slot <;> unfold RowWord.Statement <;> decide
theorem RowWord.setIdxXY (slot : Slot) : RowWord.Statement (.setIdxXY slot) := by
  cases slot <;> unfold RowWord.Statement <;> decide
theorem RowWord.getRUI (slot : Slot) : RowWord.Statement (.getRUI slot) := by
  cases slot <;> unfold RowWord.Statement <;> decide
theorem RowWord.getRUF (slot : Slot) : RowWord.Statement (.getRUF slot) := by
  cases slot <;> unfold RowWord.Statement <;> decide
theorem RowWord.getRSI (slot : Slot) : RowWord.Statement (.getRSI slot) := by
  cases slot <;> unfold RowWord.Statement <;> decide
theorem RowWord.getRSF (slot : Slot) : RowWord.Statement (.getRSF slot) := by
  cases slot <;> unfold RowWord.Statement <;> decide
theorem RowWord.getRValuesUI (slot : Slot) : RowWord.Statement (.getRValuesUI slot) := by
  cases slot <;> unfold RowWord.Statement <;> decide
theorem RowWord.getRValuesUF (slot : Slot) : RowWord.Statement (.getRValuesUF slot) := by
  cases slot <;> unfold RowWord.Statement <;> decide
theorem RowWord.getRValuesSI (slot : Slot) : RowWord.Statement (.getRValuesSI slot) := by
  cases slot <;> unfold RowWord.Statement <;> decide
theorem RowWord.getRValuesSF (slot : Slot) : RowWord.Statement (.getRValuesSF slot) := by
  cases slot <;> unfold RowWord.Statement <;> decide

end Sys2Proof.Laws
end

