-- ==== Sys2Proof/Tests/Slice0.lean ====
section
/-! SUPPORT. Tests: the ill-formed commands, parameters and memories that each check refuses; a word written out from
30_encoding.md R79 or 95_test_vectors.md section 2.1 for every command; one step of each command on the vectors of
95_test_vectors.md; and, for each statement with hypotheses, states and operands that meet them (`witness_`). -/

namespace Sys2Proof.Tests

open Sys2Proof Sys2Proof.Machine

/-! ### Well-formedness: each check refuses an ill-formed term -/

/-- A legal filling of the fields, GET_R.S.F b1 (0x78 in 95_test_vectors.md section 2.1). -/
theorem test_wf_legal : CmdFields.legal ⟨8, true, true, true, false, 0⟩ = true := by decide
theorem test_wf_reserved_op : CmdFields.legal ⟨10, false, false, false, false, 0⟩ = false := by decide
theorem test_wf_reserved_bits : CmdFields.legal ⟨4, false, false, false, false, 1⟩ = false := by decide
theorem test_wf_unused_s : CmdFields.legal ⟨4, true, false, false, false, 0⟩ = false := by decide
theorem test_wf_unused_f : CmdFields.legal ⟨1, false, true, false, false, 0⟩ = false := by decide
theorem test_wf_unused_slot : CmdFields.legal ⟨0, false, false, true, false, 0⟩ = false := by decide
theorem test_wf_unused_ep : CmdFields.legal ⟨8, false, false, false, true, 0⟩ = false := by decide
/-- The ranges of 00_scope.md R9, at their ends and one past them. -/
theorem test_params_wf : (⟨16, 8, 0⟩ : Params).wf = true ∧ (⟨1024, 1024, 0⟩ : Params).wf = true ∧
    (⟨15, 8, 0⟩ : Params).wf = false ∧ (⟨1025, 8, 0⟩ : Params).wf = false ∧
    (⟨16, 7, 0⟩ : Params).wf = false ∧ (⟨16, 1025, 0⟩ : Params).wf = false := by decide
/-- A memory out of order, and one with an address twice, are not canonical. -/
theorem test_memory_wf : Memory.wf [(0x1000, 1), (0x1001, 0)] ∧ ¬ Memory.wf [(0x1001, 1), (0x1000, 0)] ∧
    ¬ Memory.wf [(0x1000, 1), (0x1000, 0)] := by decide

/-! ### Decoding: a word written out for every command -/

/-- What the decoder reads from a 32-bit row word. -/
def dec (w : Nat) : Option Instr := decodeTableWord 32 w

/-- Words of 30_encoding.md R79 and 95_test_vectors.md section 2.1, bit by bit: RES, EP SLOT F S, OP. -/
theorem test_decode_control : dec 0b000000000000000000000000_0000_0000 = some .nop := by decide
theorem test_decode_encode : dec 0b000000000000000000000000_0000_0001 = some (.encodeU .b0) ∧
    dec 0b000000000000000000000000_0101_0001 = some (.encodeS .b1) := by decide
theorem test_decode_getEp : dec 0b000000000000000000000000_1000_0010 = some (.getEpU .b0 .e1) ∧
    dec 0b000000000000000000000000_1101_0010 = some (.getEpS .b1 .e1) := by decide
theorem test_decode_setEp : dec 0b000000000000000000000000_1000_0011 = some (.setEpU .b0 .e1) ∧
    dec 0b000000000000000000000000_0101_0011 = some (.setEpS .b1 .e0) := by decide
theorem test_decode_idx : dec 0b000000000000000000000000_0100_0100 = some (.getIdx .b1) ∧
    dec 0b000000000000000000000000_0100_0101 = some (.setIdx .b1) ∧
    dec 0b000000000000000000000000_0000_0110 = some (.getIdxXY .b0) ∧
    dec 0b000000000000000000000000_0100_0111 = some (.setIdxXY .b1) := by decide
theorem test_decode_getR : dec 0b000000000000000000000000_0000_1000 = some (.getRUI .b0) ∧
    dec 0b000000000000000000000000_0010_1000 = some (.getRUF .b0) ∧
    dec 0b000000000000000000000000_0001_1000 = some (.getRSI .b0) ∧
    dec 0b000000000000000000000000_0111_1000 = some (.getRSF .b1) := by decide
theorem test_decode_getRValues : dec 0b000000000000000000000000_0000_1001 = some (.getRValuesUI .b0) ∧
    dec 0b000000000000000000000000_0110_1001 = some (.getRValuesUF .b1) ∧
    dec 0b000000000000000000000000_0001_1001 = some (.getRValuesSI .b0) ∧
    dec 0b000000000000000000000000_0011_1001 = some (.getRValuesSF .b0) := by decide
/-- The illegal words of 95_test_vectors.md section 2.1. -/
theorem test_decode_illegal :
    ([0x21, 0x81, 0x14, 0x24, 0xB8, 0x0A, 0x0B, 0x0C, 0x0D, 0x0E, 0x0F, 0x100, 0x80000001, 0x10].map dec).all (· == none) =
      true := by decide
theorem test_encode_words : encode (.getEpS .b1 .e1) = 0x000000D2 ∧ encode (.setIdxXY .b1) = 0x00000047 ∧
    encode (.getRValuesUF .b1) = 0x00000069 := by decide

/-! ### Small states -/

/-- After reset, with these argument registers and this BLOCK[0]. -/
def st (a0 a1 a3 : Word) (b : Block) : State :=
  { State.reset with live := { Args.reset with arg0 := a0, arg1 := a1, arg3 := a3 }, block0 := b }

/-- After reset, with both buffers present: SRC 64 words from 0, OUT `dlen` words from `dbase`. -/
def buf (a0 a1 a2 dbase dlen : Word) (b : Block) : State :=
  { State.reset with
    live := { Args.reset with
      arg0 := a0, arg1 := a1, arg2 := a2, bufcfg := 3, srcLen := 64, dstBase := dbase, dstLen := dlen }
    block0 := b }

/-- The state with words written to SRC from index `j` on. -/
def withSrc (s : State) : Nat → List Word → State
  | _, [] => s
  | j, w :: ws => withSrc { s with mem := s.mem.writeWord (srcOffset j) w } (j + 1) ws

/-- The step that completes a command word just issued. -/
def run (w : Nat) (s : State) : Host.Outcome State Fault Refusal := step (s.withFetchWord 32 w)

/-- What a next state shows; nothing where there is none. -/
def see {α : Type} (o : Host.Outcome State Fault Refusal) (f : State → α) : Option α :=
  match o with
  | .next t => some (f t)
  | .fault _ => none
  | .refused _ => none

/-- The fault, where there is one. -/
def faultOf (o : Host.Outcome State Fault Refusal) : Option Fault :=
  match o with
  | .next _ => none
  | .fault e => some e
  | .refused _ => none

/-- RESULT and STATUS. -/
def resStatus (t : State) : Word × Word := (t.result, t.status)
/-- BLOCK[0] and STATUS. -/
def blkStatus (t : State) : Block × Word := (t.block0, t.status)
/-- BLOCK[0] and ENC_INFO. -/
def blkInfo (t : State) : Block × Word := (t.block0, t.encInfo)
/-- The words OUT[j] to OUT[j+7], and STATUS. -/
def outs (j : Nat) (t : State) : List Word × Word :=
  ((List.range 8).map (fun k => t.readWord (outOffset (j + k))), t.status)

/-- The block of vector E1. -/
def e1Block : Block := 0xE4DB246DA406EB13

/-! ### One step of each command (95_test_vectors.md) -/

/-- 43_control.md R200: the example from STATUS = 0x36. -/
theorem test_nop : see (run 0x00 { State.reset with status := 0x36 }) (·.status) = some 0x02 := by decide
theorem test_getEpU : see (run 0x82 (st 0 0 0 e1Block)) resStatus = some (0x000000EB, 0x02) ∧
    see (run 0x02 (st 0 0 0 0x80)) resStatus = some (0x00000080, 0x02) := by decide
theorem test_getEpS : see (run 0x92 (st 0 0 0 e1Block)) resStatus = some (0xFFFFFFEB, 0x02) ∧
    see (run 0x12 (st 0 0 0 0x80)) resStatus = some (0xFFFFFF81, 0x02) := by decide
theorem test_setEpU : see (run 0x83 (st 0 0 200 0)) blkStatus = some (0xC800, 0x02) ∧
    see (run 0x03 (st 0 0 0xFFFFFFFF 0)) blkStatus = some (0, 0x22) := by decide
theorem test_setEpS : see (run 0x13 (st 0 0 0xFFFFFF80 0)) blkStatus = some (0x81, 0x02) ∧
    see (run 0x13 (st 0 0 0xFFFFFF7F 0)) blkStatus = some (0, 0x22) := by decide
theorem test_getIdx : see (run 0x04 (st 13 0 0 e1Block)) resStatus = some (1, 0x02) ∧
    see (run 0x04 (st 16 0 0 e1Block)) resStatus = some (0, 0x22) := by decide
theorem test_setIdx : see (run 0x05 (st 7 0 0 0xFFFFFFFFFFFFFFFF)) blkStatus = some (0xFFFFFF1FFFFFFFFF, 0x02) ∧
    see (run 0x05 (st 3 0 8 0)) blkStatus = some (0, 0x22) := by decide
theorem test_getIdxXY : see (run 0x06 (st 3 1 0 e1Block)) resStatus = some (3, 0x02) ∧
    see (run 0x06 (st 4 0 0 e1Block)) resStatus = some (0, 0x22) := by decide
theorem test_setIdxXY : see (run 0x07 (st 1 2 3 0)) blkStatus = some (0x0000180000000000, 0x02) ∧
    see (run 0x07 (st 0 4 1 0)) blkStatus = some (0, 0x22) := by decide
/-- Slot 4 of (200, 100), and slot 8, which is out of range. -/
theorem test_getRUI : see (run 0x08 (st 4 0 0 0x64C8)) resStatus = some (157, 0x02) ∧
    see (run 0x08 (st 8 0 0 0x64C8)) resStatus = some (0, 0x22) := by decide
/-- The one-ulp deviation of (1, 1), slot 3, and slot 4 of (19, 235). -/
theorem test_getRUF : see (run 0x28 (st 3 0 0 0x0101)) resStatus = some (0x3B808082, 0x02) ∧
    see (run 0x28 (st 4 0 0 e1Block)) resStatus = some (0x3F152EC9, 0x02) := by decide +kernel
/-- Division toward zero at (-5, -6), and the remap at raw 0x80, 0x81. -/
theorem test_getRSI : see (run 0x18 (st 7 0 0 0xFAFB)) resStatus = some (0xFFFFFFFB, 0x02) ∧
    see (run 0x18 (st 6 0 0 0x8180)) resStatus = some (0xFFFFFF81, 0x02) := by decide
/-- Slot 2 of (127, -127) and of (-100, 100). -/
theorem test_getRSF : see (run 0x38 (st 2 0 0 0x817F)) resStatus = some (0x3F36DB6E, 0x02) ∧
    see (run 0x38 (st 2 0 0 0x649C)) resStatus = some (0xBEF1E3C6, 0x02) := by decide +kernel
/-- Program P3: DST_BASE 4, DST_LEN 10, offset 2 and offset 3. -/
theorem test_getRValuesUI :
    see (run 0x09 (buf 2 0 0 4 10 e1Block)) (outs 6) = some ([19, 235, 62, 105, 148, 191, 0, 255], 0x02) ∧
    see (run 0x09 (buf 3 0 0 4 10 e1Block)) (·.status) = some 0x22 := by decide
/-- The last words of OUT, and the missing buffer before the offset. -/
theorem test_getRValuesUF :
    see (run 0x29 (buf 0 0 0 56 8 e1Block)) (outs 56) =
      some ([0x3D989899, 0x3F6BEBEC, 0x3E79C693, 0x3ED3A06D, 0x3F152EC9, 0x3F408D5A, 0, 0x3F800000], 0x02) ∧
    see (run 0x29 (st 0xFFFFFFFF 0 0 e1Block)) (·.status) = some 0x12 := by decide +kernel
theorem test_getRValuesSI :
    see (run 0x19 (buf 0 0 0 0 8 0x649C)) (outs 0) =
      some ([0xFFFFFF9C, 100, 0xFFFFFFC4, 0xFFFFFFEC, 20, 60, 0xFFFFFF81, 127], 0x02) ∧
    see (run 0x19 (buf 0 0 0 60 8 0x649C)) (·.status) = some 0x22 := by decide
theorem test_getRValuesSF :
    see (run 0x39 (buf 0 0 0 0 8 0x9C64)) (outs 0) =
      some ([0x3F499326, 0xBF499326, 0x3F0FFB63, 0x3EACC746, 0x3DE65F09, 0xBDE65F09, 0xBEACC746, 0xBF0FFB63], 0x02) := by
  decide +kernel

/-- Vector E1, gathered as in E16: start 12, pitches -4 and 1. -/
def rampState (a0 a1 : Word) : State :=
  withSrc (buf a0 a1 1 0 8 0) 0
    [0x00000000, 0x3D888889, 0x3E088889, 0x3E4CCCCD, 0x3E888889, 0x3EAAAAAB, 0x3ECCCCCD, 0x3EEEEEEF, 0x3F088889,
      0x3F19999A, 0x3F2AAAAB, 0x3F3BBBBC, 0x3F4CCCCD, 0x3F5DDDDE, 0x3F6EEEEF, 0x3F800000]

theorem test_encodeU_flipped_ramp :
    see (run 0x01 (rampState 12 0xFFFFFFFC)) blkInfo = some (0x4066DAB24E4DEB13, 0x51) := by decide +kernel
/-- Vector E12, the 8-point mode where the optimizer loses to the naive endpoints (42_encoder.md R187). -/
theorem test_encodeU_eight :
    see (run 0x01 (withSrc (buf 0 4 1 0 8 0) 0
      [0x3EF00000, 0x3EF00000, 0x3F700000, 0x3EF00000, 0x3F3C0000, 0x3EF00000, 0x3EF00000, 0x3F700000, 0x3EF00000,
        0x3EF00000, 0x3F700000, 0x3EF00000, 0x3F700000, 0x3F3C0000, 0x3F700000, 0x3EF00000])) blkInfo =
      some (0x22020904C20977EE, 0x41) := by decide +kernel
/-- Vector E6, two iterations of the Newton loop. -/
theorem test_encodeS_eight :
    see (run 0x11 (withSrc (buf 0 4 1 0 8 0) 0
      [0xBF666666, 0xBF47AE14, 0xBF28F5C3, 0xBF0A3D71, 0xBED70A3D, 0xBE99999A, 0xBE3851EC, 0xBD75C28F, 0x3D75C28F,
        0x3E3851EC, 0x3E99999A, 0x3ED70A3D, 0x3F0A3D71, 0x3F28F5C3, 0x3F47AE14, 0x3F666666])) blkInfo =
      some (0x0126E4B76FC9946C, 0x62) := by decide +kernel
/-- Vector E11: NaN, infinities, -0.0, samples outside the domain, and the snapping of -0.0. -/
theorem test_encodeS_edges :
    see (run 0x11 (withSrc (buf 0 4 1 0 8 0) 0
      ([0x7FC00001, 0x7F800000, 0xFF800000, 0x80000000, 0x40000000, 0xC0400000] ++ List.replicate 10 0x3F000000)))
      blkInfo = some (0x2492492771BE4000, 0x71) := by decide +kernel
/-- 95_test_vectors.md section 2.4: a = -4 at sample 4, and a = 64 at sample 7, fault; without a source buffer the
ENCODE ends in MISSING_ARGUMENT and reads no sample. -/
theorem test_encode_stops : faultOf (run 0x01 (buf 0 0xFFFFFFFC 1 0 8 0)) = some .undefinedSrcBounds ∧
    faultOf (run 0x11 (buf 60 1 1 0 8 0)) = some .undefinedSrcBounds ∧
    see (run 0x01 State.reset) (fun t => (t.status, t.block0, t.encInfo)) = some (0x12, 0, 0) := by decide
theorem test_illegal_word : see (run 0x21 (st 0 0 0 e1Block)) blkStatus = some (e1Block, 0x32) := by decide

/-! ### Host accesses (95_test_vectors.md section 2.6) -/

/-- A state whose next action is this. -/
def doing (a : HostAction) (s : State) : State := { s with script := [a] }

/-- What the newest host read returned. -/
def lastRead (t : State) : Option Word := t.readLog.head?.map Prod.snd

/-- GET_IDX in execution, with ARG0 = 5. -/
def busyState : State := (st 5 0 0 e1Block).issue 0x00000004

theorem test_read_id : see (step (doing (rdReg defaultParams .id) State.reset)) lastRead = some (some 0x42433435) := by
  decide
/-- While BUSY a write of ARG0 is ignored and sets OVERRUN, which STATUS shows as 0x05 and, after completion, 0x06. -/
theorem test_overrun :
    see (step (doing (wrReg defaultParams .arg0 9) busyState)) (fun t => (t.live.arg0, t.status)) = some (5, 0x05) ∧
    see (step { busyState with status := 0x05 }) resStatus = some (3, 0x06) := by decide
/-- A second command is dropped. -/
theorem test_second_command_dropped :
    see (step (doing (wrReg defaultParams .cmd 0x82) busyState)) (·.seq) = some busyState.seq := by decide
theorem test_reset_abandons :
    see (step (doing .reset busyState)) (fun t => (t.seq, t.status, t.live, t.block0, t.result)) =
      some (.idle, 0, Args.reset, 0, 0) := by decide
/-- An access at offset 9 and a 16-bit access fault. -/
theorem test_bus_faults : faultOf (step (doing (.read .w32 0x0009) State.reset)) = some .undefinedBusAccess ∧
    faultOf (step (doing (.read .w16 0x0008) State.reset)) = some .undefinedBusAccess := by decide
/-- Program P1's bytes of BLOCK[0]. -/
theorem test_block_bytes : blockBytes e1Block = [0x13, 0xEB, 0x06, 0xA4, 0x6D, 0x24, 0xDB, 0xE4] := by decide
theorem test_src_little_endian :
    see (step (doing (wrSrc defaultParams 1 0x3D888889) State.reset)) (·.mem) =
      some [(0x1004, 0x89), (0x1005, 0x88), (0x1006, 0x88), (0x1007, 0x3D)] := by decide
/-- `setsrc 0, 16` with the host's copy of BUFCFG at 2 (30_encoding.md R80). -/
theorem test_setsrc : setSrc defaultParams 2 0 16 =
    [.write .w32 0x28 0, .write .w32 0x2C 16, .write .w32 0x24 3] := by decide

/-! ### Host programs (30_encoding.md R80) -/

/-- What a run of a host program shows of its last state, and how much of the program is left. -/
def seeRun {α : Type} (o : Host.Outcome (State × List HostStmt) Fault Refusal) (f : State → α) : Option (α × Nat) :=
  match o with
  | .next (t, left) => some (f t, left.length)
  | .fault _ => none
  | .refused _ => none

/-- What the reads of a run returned, oldest first. -/
def readValues (t : State) : List Word := (t.readLog.map Prod.snd).reverse

/-- NOP and `wait`: two polls see BUSY = 1, the third comes after the completion and ends the loop. -/
theorem test_wait_polls_until_done :
    seeRun (runHost [[], [], [], [.complete]] [.access (issueCmd defaultParams .nop), .wait] State.reset) readValues =
      some ([1, 1, 2], 0) := by decide
/-- A schedule that ends while BUSY = 1 leaves `wait` to do. -/
theorem test_wait_not_ended :
    seeRun (runHost [[], [], []] [.access (issueCmd defaultParams .nop), .wait] State.reset) readValues = some ([1, 1], 1) := by
  decide
/-- `wait` ended by a reset (70_reset_and_hazards.md R251): the read returns STATUS = 0. -/
theorem test_wait_ended_by_reset :
    seeRun (runHost [[], [], [.reset]] [.access (issueCmd defaultParams .nop), .wait] State.reset) readValues =
      some ([1, 0], 0) := by decide
/-- `encode_bc5.u` without a source buffer: the first `wait` polls once, the second three times; both commands end in
MISSING_ARGUMENT, and the second one's ARG0 is start + 1. -/
theorem test_encode_bc5_polls_differ :
    seeRun (runHost [[], [], [], [], [.complete], [], [], [], [], [], [], [.complete]]
      (encodeBc5Prog defaultParams .unsigned 6 8 2) State.reset) (fun t => (readValues t, t.live.arg0)) =
      some (([0x12, 1, 1, 0x12], 7), 0) := by decide

/-! ### Witnesses: states and operands that meet the hypotheses of the statements, each clause at its boundaries -/

theorem inv_busyState : Inv busyState :=
  ⟨by decide, by unfold statusGood; decide, by unfold encInfoGood; decide, by decide, by unfold snapshotGood; decide,
    by unfold memGood; decide, by unfold scratchGood; decide⟩

/-- Idle after NOP, with ARG0 = 5. -/
def idleState : State := { st 5 0 0 e1Block with status := 0x02 }

theorem inv_idleState : Inv idleState :=
  ⟨by decide, by unfold statusGood; decide, by unfold encInfoGood; decide, by decide, by unfold snapshotGood; decide,
    by unfold memGood; decide, by unfold scratchGood; decide⟩

/-- An illegal word in execution. -/
def illegalState : State := State.reset.issue 0x00000021

theorem inv_step {a : HostAction} {s : State} (h : Inv s) : Inv (doing a s) :=
  ⟨h.params, h.status, h.encInfo, h.bufcfg, h.snapshot, h.mem, h.scratch⟩

theorem witness_DecodeEncodeInverse : (Instr.getEpS .b1 .e1).wf = true ∧ (0xD2 : Word) = encode (.getEpS .b1 .e1) := by
  decide
theorem witness_LegalWordsAndIllegalWords : dec 0x78 = some (.getRSF .b1) ∧ (fieldsOf 0x21).legal = false ∧
    illegalState.seq = .busy 0x21 Args.reset := by decide
theorem witness_StepRunsDecodedCommand :
    busyState.seq = .busy 4 busyState.live ∧ busyState.script = [] ∧ dec 4 = some (.getIdx .b0) ∧
    (doing .complete busyState).script = .complete :: [] ∧ State.reset.seq = .idle ∧ State.reset.script = [] := by decide
/-- The CMD write last, before a completion, and before a poll and a reset. -/
theorem witness_CmdWriteIssues : statusBusy idleState.status = false ∧ dec 0x01 = some (.encodeU .b0) ∧
    ∀ rest ∈ [[], [.complete], [rdReg defaultParams .status, .reset]],
      ({ idleState with script := .write .w32 0x04 0x01 :: rest } : State).script =
        .write .w32 (idleState.params.coreBase + 0x04) 0x01 :: rest := by decide
theorem witness_WritesWhileBusyOnlySetOverrun : ∀ o ∈ [0x0000, 0x0004, 0x0038, 0x2FFC], statusBusy busyState.status = true ∧
    o < 0x3000 ∧ o % 4 = 0 ∧
    (doing (.write .w32 o 1) busyState).script = .write .w32 (busyState.params.coreBase + o) 1 :: [] := by decide
/-- SRC[0], SRC[63], OUT[0], OUT[63] and the first and last reserved offset of each range. -/
theorem witness_ReadsWhileBusy : (∀ o ∈ [0x00, 0x34, 0x38, 0x3C, 0x0C, 0x4C, 0x50, 0xFFC, 0x1000, 0x10FC, 0x1100, 0x1FFC,
      0x2000, 0x20FC, 0x2100, 0x2FFC], Inv (doing (.read .w32 o) busyState)) ∧
    statusBusy busyState.status = true ∧ busyState.params.srcWords = 64 ∧ busyState.params.outWords = 64 :=
  ⟨fun _ _ => inv_step inv_busyState, by decide, by decide, by decide⟩
theorem witness_ReadsWhenIdle : (∀ o ∈ [0x00, 0x4C, 0x1000, 0x10FC, 0x2000, 0x20FC], Inv (doing (.read .w32 o) idleState)) ∧
    statusBusy idleState.status = false := ⟨fun _ _ => inv_step inv_idleState, by decide⟩
theorem witness_RegisterWritesWhenIdle : statusBusy idleState.status = false ∧ ∀ o ∈ [0x00, 0x4C],
    (doing (.write .w32 o 7) idleState).script = .write .w32 (idleState.params.coreBase + o) 7 :: [] := by decide
theorem witness_MemoryWritesWhenIdle : idleState.params.wf = true ∧ statusBusy idleState.status = false ∧
    (∃ j < idleState.params.srcWords, 0x10FC = 0x1000 + 4 * j) ∧ (∃ j < idleState.params.outWords, 0x2000 = 0x2000 + 4 * j) ∧
    (∃ j < idleState.params.srcWords, 0x1000 = 0x1000 + 4 * j) ∧ (∃ j < idleState.params.outWords, 0x20FC = 0x2000 + 4 * j) := by
  decide +kernel
theorem witness_ReservedAndOutsideOffsets : statusBusy idleState.status = false ∧
    (doing (.write .w32 0x38 1) idleState).script = .write .w32 (idleState.params.coreBase + 0x38) 1 :: [] ∧
    (doing (.read .w32 0x1100) idleState).script = .read .w32 (idleState.params.coreBase + 0x1100) :: [] ∧
    0x1000 + 4 * idleState.params.srcWords ≤ 0x1100 ∧ 0x2000 + 4 * idleState.params.outWords ≤ 0x2FFC ∧
    (doing (.read .w8 0x3000) idleState).script = .read .w8 (idleState.params.coreBase + 0x3000) :: [] := by decide
theorem witness_FaultsExactlyWhenUndefined : isEncode (.encodeU .b0) = true ∧
    (buf 0 0xFFFFFFFC 1 0 8 0).operands.bufcfg.getLsbD 0 = true ∧ ¬ gatherInBounds (buf 0 0xFFFFFFFC 1 0 8 0) ∧
    idleState.params.coreBase ≤ 0x2FFF ∧ 0x2FFF < idleState.params.coreBase + 0x3000 := by
  unfold gatherInBounds; decide +kernel
theorem witness_StepCompletesUnlessUndefined :
    actionDefined defaultParams (.read .w32 0x2FFC) ∧ actionDefined defaultParams (.read .w8 0x3000) ∧
    ((rampState 0 4).issue 0x01).seq = .busy 0x01 (rampState 0 4).live ∧ dec 0x01 = some (.encodeU .b0) ∧
    ((rampState 0 4).issue 0x01).operands.bufcfg.getLsbD 0 = true ∧ gatherInBounds ((rampState 0 4).issue 0x01) := by
  unfold gatherInBounds actionDefined; decide +kernel
theorem witness_ResetGivesResetValues : (doing .reset busyState).script = .reset :: [] := by decide
theorem witness_SetEpUnsigned : (st 0 0 0 0).argInt3 = 0 ∧ (st 0 0 255 0).argInt3 = 255 ∧
    (st 0 0 0xFFFFFFFF 0).argInt3 = -1 ∧ (st 0 0 256 0).argInt3 = 256 := by decide
theorem witness_SetEpSigned : (st 0 0 0xFFFFFF80 0).argInt3 = -128 ∧ (st 0 0 127 0).argInt3 = 127 ∧
    (st 0 0 0xFFFFFF7F 0).argInt3 = -129 ∧ (st 0 0 128 0).argInt3 = 128 := by decide
theorem witness_GetIndex : (st 0 0 0 0).argInt0 = 0 ∧ (st 15 0 0 0).argInt0 = 15 ∧ (st 0xFFFFFFFF 0 0 0).argInt0 = -1 ∧
    (st 16 0 0 0).argInt0 = 16 := by decide
theorem witness_SetIndex : (st 15 0 7 0).argInt0 = 15 ∧ (st 15 0 7 0).argInt3 = 7 ∧ (st 0 0 0 0).argInt3 = 0 ∧
    (st 0 0 8 0).argInt3 = 8 ∧ (st 0 0 0xFFFFFFFF 0).argInt3 = -1 ∧ (st 16 0 0 0).argInt0 = 16 := by decide
theorem witness_GetIndexXY : (st 3 3 0 0).argInt0 = 3 ∧ (st 3 3 0 0).argInt1 = 3 ∧ (st 4 0 0 0).argInt0 = 4 ∧
    (st 0 4 0 0).argInt1 = 4 ∧ (st 0 0xFFFFFFFF 0 0).argInt1 = -1 := by decide
theorem witness_SetIndexXY : (st 3 3 7 0).argInt0 = 3 ∧ (st 3 3 7 0).argInt1 = 3 ∧ (st 3 3 7 0).argInt3 = 7 ∧
    (st 4 0 0 0).argInt0 = 4 ∧ (st 0 4 0 0).argInt1 = 4 ∧ (st 0 0 8 0).argInt3 = 8 := by decide
/-- For the four GetEntry statements: slots 0 and 7, and -1 and 8. -/
theorem witness_GetEntry : (st 0 0 0 0).argInt0 = 0 ∧ (st 7 0 0 0).argInt0 = 7 ∧ (st 0xFFFFFFFF 0 0 0).argInt0 = -1 ∧
    (st 8 0 0 0).argInt0 = 8 := by decide
/-- For the four WritePalette statements: the destination checks of 95_test_vectors.md section 2.3. -/
theorem witness_WritePalette : (buf 2 0 0 4 10 0).operands.bufcfg.getLsbD 1 = true ∧ outFits (buf 2 0 0 4 10 0) = true ∧
    outFits (buf 0 0 0 56 8 0) = true ∧ outFits (buf 3 0 0 4 10 0) = false ∧ outFits (buf 0xFFFFFFFF 0 0 0 64 0) = false ∧
    outFits (buf 0 0 0 60 8 0) = false ∧ outFits (buf 0 0 0 0 7 0) = false ∧
    (st 0 0 0 0).operands.bufcfg.getLsbD 1 = false := by decide
theorem witness_IntegerPaletteRangeAndOrder : epValue 0x64C8 .e0 .unsigned > epValue 0x64C8 .e1 .unsigned ∧
    epValue 0x649C .e0 .signed < epValue 0x649C .e1 .signed ∧ (0xFF : Int) ∈ palInt 0xEB13 .unsigned ∧
    (-127 : Int) ∈ palInt 0x8180 .signed := by decide
/-- The ends of both domains, and both orders of the endpoints in both formats, at neighbours and at the widest pair. -/
theorem witness_FloatPaletteRange : (0x3F800000 : Word) ∈ palF 0xEB13 .unsigned ∧ (0xBF800000 : Word) ∈ palF 0x8180 .signed ∧
    epValue 0x00FF .e0 .unsigned > epValue 0x00FF .e1 .unsigned ∧ epValue 0x0100 .e0 .unsigned < epValue 0x0100 .e1 .unsigned ∧
    epValue 0x817F .e0 .signed > epValue 0x817F .e1 .signed ∧ epValue 0x7E7D .e0 .signed < epValue 0x7E7D .e1 .signed := by
  decide +kernel
/-- For AddRoundsToNearestEven, MulRoundsToNearestEven and DivRoundsToNearestEven: a tie (0x3EFFFFFF + 0.5 in R179), a sum, a product and a quotient that overflow,
and finite results and divisors. -/
theorem witness_Rounding : fisFinite 0x3EFFFFFF = true ∧ fisFinite 0x3F000000 = true ∧
    fadd 0x3EFFFFFF 0x3F000000 = 0x3F800000 ∧ fisInf (fadd 0x7F7FFFFF 0x7F7FFFFF) = true ∧
    fisInf (fmul 0x7F7FFFFF 0x7F7FFFFF) = true ∧ fisFinite (fmul 0x3F000000 0x3F000000) = true ∧
    funits 0x00000001 ≠ 0 ∧ fisInf (fdiv 0x7F7FFFFF 0x00000001) = true ∧ fisFinite (fdiv 0x3F800000 0x40E00000) = true ∧
    fisFinite 0x00000000 = true ∧ (funits (fadd 0x3EFFFFFF 0x3F000000) - (funits 0x3EFFFFFF + funits 0x3F000000)).natAbs =
      (funits 0x3F7FFFFF - (funits 0x3EFFFFFF + funits 0x3F000000)).natAbs ∧ funits 0x3F7FFFFF ≠ funits 0x3F800000 := by
  decide +kernel
/-- The signs in them: a zero sum of two negative zeros, of opposite values and of zeros of both signs; a negative sum that
overflows; a product that underflows to -0 and a quotient that overflows to -infinity. -/
theorem witness_RoundingSigns : funits 0x80000000 + funits 0x80000000 = 0 ∧ fadd 0x80000000 0x80000000 = 0x80000000 ∧
    funits 0x3F800000 + funits 0xBF800000 = 0 ∧ fadd 0x3F800000 0xBF800000 = 0x00000000 ∧
    funits 0x00000000 + funits 0x80000000 = 0 ∧ fadd 0x00000000 0x80000000 = 0x00000000 ∧
    funits 0xFF7FFFFF + funits 0xFF7FFFFF ≠ 0 ∧ fadd 0xFF7FFFFF 0xFF7FFFFF = 0xFF800000 ∧
    fmul 0x80000001 0x3F000000 = 0x80000000 ∧ fdiv 0xFF7FFFFF 0x3F000000 = 0xFF800000 := by decide +kernel
theorem witness_IntegerConversionExact : (16777216 : Int).natAbs ≤ 2 ^ 24 ∧ (-16777216 : Int).natAbs ≤ 2 ^ 24 := by decide
theorem witness_ClampIntoDomain : fle (domLo .unsigned) 0x80000000 = true ∧ fle 0x80000000 domHi = true ∧
    fisNaN 0x7FC00001 = true ∧ flt 0xC0400000 (domLo .signed) = true ∧ flt domHi 0x3F800001 = true := by decide +kernel

/-- Scratch holding these samples. -/
def samp (l : List Word) : Scratch := { Scratch.reset with samples := l }

/-- For ScanFindsFirstMinAndMax, SixPointModeIffExtremePresent, RefinedEndpointsFinite and QuantizedEndpointsOrdered: both
modes, with and without inner samples. -/
theorem witness_Samples : (samp (List.replicate 16 0x3F000000)).samples.length = 16 ∧
    (chooseScheme .unsigned (scanMinMax .unsigned (samp (List.replicate 16 0x3F000000)))).n = .eight ∧
    (chooseScheme .signed (scanMinMax .signed (samp (List.replicate 16 0x7FC00001)))).n = .six ∧
    (quantize .unsigned (spanValues .unsigned (scanMinMax .unsigned (samp (List.replicate 16 0x3F000000))))).n = .eight ∧
    (quantize .signed (spanValues .signed (scanMinMax .signed (samp (List.replicate 16 0x7FC00001))))).n = .six := by
  decide +kernel
theorem witness_InitialBracketSpansInnerSamples :
    (samp [0x3F000000]).n = .eight ∧ ({ samp [0x3F800000] with n := .six } : Scratch).n = .six ∧
    (∀ v ∈ (samp [0x3F800000]).samples, isInner .unsigned v = false) ∧
    (∃ v ∈ (samp [0x3F800000, 0x3F000000]).samples, isInner .unsigned v = true) :=
  ⟨rfl, rfl, fun v h => by obtain rfl := List.mem_singleton.1 h; decide, 0x3F000000, by simp [samp], by decide⟩
theorem witness_NewtonLoopStopsAsSpecified :
    (newtonLoop .unsigned newtonBound (beforeNewton .unsigned (samp (List.replicate 16 0x3F000000)))).iter = 0 ∧
    (newtonLoop .unsigned newtonBound (beforeNewton .unsigned
      (samp (0x3E800000 :: 0x3E4CCCCD :: List.replicate 14 0x3F000000)))).iter = 1 := by decide +kernel
/-- The grid clause: a bracket exactly 2^-8 wide, and one as wide as the largest finite value. The step clause, with X = 0.25
and Y = 0.75 (6-point): `dot` 0 at X with p above and at X/2, `dot` 5.0 at Y with p below and at (Y + 1)/2, and `dot` just
below 5.0, whose step is 5. -/
theorem witness_UpdateGuardedAndOrdered_grid :
    fisNaN (fsub 0x3B800000 0x00000000) = false ∧ flt (fsub 0x3B800000 0x00000000) 0x3B800000 = false ∧
    fisNaN (fsub 0x7F7FFFFF 0x00000000) = false ∧ flt (fsub 0x7F7FFFFF 0x00000000) 0x3B800000 = false ∧
    stepDot 0x40A00000 0x3E800000 0x3F400000 0x3E800000 = 0x00000000 ∧
    assignStep .six 0x3E800000 0x3F400000 (gridScale .six 0x3E800000 0x3F400000) 0x3E800000 = 0 ∧
    assignStep .six 0x3E800000 0x3F400000 (gridScale .six 0x3E800000 0x3F400000) 0x3E000000 = 6 ∧
    stepDot 0x40A00000 0x3E800000 0x3F400000 0x3F400000 = 0x40A00000 ∧
    assignStep .six 0x3E800000 0x3F400000 (gridScale .six 0x3E800000 0x3F400000) 0x3F400000 = 5 ∧
    assignStep .six 0x3E800000 0x3F400000 (gridScale .six 0x3E800000 0x3F400000) 0x3F600000 = 7 ∧
    fge (stepDot 0x40A00000 0x3E800000 0x3F400000 0x3F3FFFFF) 0x40A00000 = false ∧
    fle (stepDot 0x40A00000 0x3E800000 0x3F400000 0x3F3FFFFF) 0x00000000 = false ∧
    assignStep .six 0x3E800000 0x3F400000 (gridScale .six 0x3E800000 0x3F400000) 0x3F3FFFFF = 5 ∧
    assignStep .eight 0x3E800000 0x3F400000 (gridScale .eight 0x3E800000 0x3F400000) 0x3F600000 = 7 := by decide +kernel

/-- The scratch before the loop of a constant block but for one sample of 0.25, in 8-point mode. -/
def loopStart : Scratch := beforeNewton .unsigned (samp (0x3E800000 :: List.replicate 15 0x3F000000))

/-- The update clause: both curvatures of an iteration positive, and one that is 0.0; updated endpoints in order, and
crossed. -/
theorem witness_UpdateGuardedAndOrdered_update :
    fgt (iterationSums .unsigned loopStart).d2X 0x00000000 = true ∧
    fgt (newtonBody .unsigned loopStart).x (newtonBody .unsigned loopStart).y = false ∧
    fgt (iterationSums .unsigned { loopStart with samples := [0x3E800000] }).d2Y 0x00000000 = false ∧
    (newtonBody .unsigned { loopStart with samples := [], x := 0x3F000000, y := 0x3E800000 }).x = 0x3E800000 ∧
    fgt 0x3F000000 0x3E800000 = true := by decide +kernel
/-- The quantizers at the ends of the domain, on either side of the sign test (-0.0 passes it); `trunc_int` of -0.5, 0.5 and -0.0; the comparisons at the zeros, the infinities and a NaN. -/
theorem witness_QuantizersInRange : fle 0x00000000 0x80000000 = true ∧ fle 0x3F800000 0x3F800000 = true ∧
    fge (fmul 0x80000000 0x42FE0000) 0x00000000 = true ∧ quantS 0x80000000 = 0 ∧
    fge (fmul 0xBF800000 0x42FE0000) 0x00000000 = false ∧ quantS 0xBF800000 = -127 ∧
    fisFinite 0xBF000000 = true ∧ funits 0xBF000000 ≤ 0 ∧ truncInt 0xBF000000 = 0 ∧ truncInt 0xBFFFFFFF = -1 ∧
    0 ≤ funits 0x80000000 ∧ funits 0x80000000 ≤ 0 ∧ fisNaN 0x7F800001 = true ∧
    fisNaN 0xFF800000 = false ∧ flt 0xFF800000 0xFF7FFFFF = true ∧ flt 0x7F7FFFFF 0x7F800000 = true := by
  decide +kernel
theorem witness_ClosestIsNearestLowest : (palF 0xEB13 .unsigned).length = 8 ∧
    (∀ e ∈ palF 0xEB13 .unsigned, fisFinite e = true) ∧ fisFinite 0x3F800000 = true ∧
    closest (palF 0xEB13 .unsigned) 0x3F800000 = 7 ∧ closest (palF 0xFFFF .unsigned) 0x3F800000 = 0 :=
  ⟨by decide +kernel, List.all_eq_true.1 (by decide +kernel), by decide, by decide +kernel, by decide +kernel⟩
theorem witness_PackFields : ((List.range 16).map (· % 8)).length = 16 ∧ (∀ v ∈ (List.range 16).map (· % 8), v < 8) ∧
    epWriteOk 255 .unsigned = true ∧ epWriteOk (-127) .signed = true ∧ epWriteOk 127 .signed = true := by decide
/-- For EncodeUnsigned and EncodeSigned: in bounds, at the last word of the buffer, without a buffer, and out of bounds at SRC_LEN
and at SRC_WORDS. -/
theorem witness_Encode : (rampState 0 4).operands.bufcfg.getLsbD 0 = true ∧ gatherInBounds (rampState 0 4) ∧
    gatherInBounds (rampState 60 0xFFFFFFF0) ∧ ¬ gatherInBounds (rampState 60 1) ∧
    ¬ gatherInBounds { rampState 0 4 with live := { (rampState 0 4).live with srcBase := 50 } } ∧
    (st 0 0 0 0).operands.bufcfg.getLsbD 0 = false := by unfold gatherInBounds; decide +kernel
theorem witness_EncodeDeterministic : SameEncodeInputs (rampState 0 4) { rampState 0 4 with block1 := 1, result := 2 } :=
  ⟨rfl, rfl, rfl, rfl, rfl, rfl, rfl, fun _ _ => rfl⟩
/-- For ErrorTableAndErrorFrame, CommandsKeepOperands, CommandsWriteOnlyTheirResults and ScratchNeverRead: each outcome is
reached. -/
theorem witness_Commands : see (exec (.encodeU .b0) (rampState 0 4)) (fun t => statusErr t.status) = some 0 ∧
    see (exec (.setEpU .b0 .e0) (st 0 0 256 0)) (fun t => statusErr t.status) = some 2 ∧
    faultOf (exec (.encodeS .b1) (buf 0 0xFFFFFFFC 1 0 8 0)) = some .undefinedSrcBounds ∧
    commandError (.setEpU .b0 .e0) (st 0 0 256 0) = .outOfRange ∧ illegalState.seq = .busy 0x21 Args.reset := by decide +kernel
theorem witness_ScheduleDoesNotMatter : statusBusy busyState.status = true ∧
    (∀ a ∈ [rdReg defaultParams .result, wrReg defaultParams .cmd 1], a.isAccess = true) ∧
    see (actAll [rdReg defaultParams .result, wrReg defaultParams .cmd 1] busyState) (fun u => statusOverrun u.status) =
      some true ∧ see (coreStep busyState) (·.result) = some 3 := by decide
theorem witness_StepKeepsInvariant : Inv busyState ∧ see (step busyState) (·.result) = some 3 :=
  ⟨inv_busyState, by decide⟩

end Sys2Proof.Tests
end

section
/-! PROOFS. The arithmetic of 00_scope.md (R10, R14): `fadd`, `fmul`, `fdiv` and `f32` round the exact value once, to
nearest with ties to even.

The idea. Magnitude bits are taken as one number `m`, with no upper end: `magUnits m` is what they stand for, in units of
2^-149, and grows with `m`. Rounding first picks the binade's spacing 2^k and then an integer multiple of it, and no
magnitude off that spacing is as near; so the rounded bits are nearest among all `m` (`roundBits_nearest`). The infinity is
the bits 0x7F800000, which stand for 2^277, so the overflow threshold is the midpoint of the two magnitudes beside it. The
signed operations then need only that a wrong sign never helps. -/

namespace Sys2Proof.Machine

/-! ### Distance to a quotient -/

/-- How far `v` is from `num / den`, times `den`. -/
def quotDist (v num den : Nat) : Nat := ((v : Int) * den - num).natAbs

theorem quotDist_mul_right (v s num den : Nat) : quotDist (v * s) num den = quotDist v num (den * s) := by
  unfold quotDist
  push_cast
  rw [mul_assoc, mul_comm (s : Int)]

/-- Below the quotient, the larger of two values is nearer. -/
theorem quotDist_lt_of_lt {v u num den : Nat} (hden : 0 < den) (hvu : v < u) (hu : u * den ≤ num) :
    quotDist u num den < quotDist v num den := by
  have hlt : v * den < u * den := Nat.mul_lt_mul_of_pos_right hvu hden
  simp only [quotDist, ← Nat.cast_mul]
  omega

theorem quotDist_eq_zero_iff {v num den : Nat} : quotDist v num den = 0 ↔ v * den = num := by
  simp only [quotDist, ← Nat.cast_mul]
  omega

/-! ### Rounding to an integer -/

theorem roundNearestEven_bounds (num den : Nat) :
    num / den ≤ roundNearestEven num den ∧ roundNearestEven num den ≤ num / den + 1 := by
  unfold roundNearestEven
  split <;> omega

/-- No integer is nearer to the quotient, and an even one is taken where another is as near. -/
theorem roundNearestEven_nearest {den : Nat} (num j : Nat) (hden : 0 < den) :
    quotDist (roundNearestEven num den) num den ≤ quotDist j num den ∧
    (quotDist (roundNearestEven num den) num den = quotDist j num den → j ≠ roundNearestEven num den →
      roundNearestEven num den % 2 = 0) := by
  have hdiv := Nat.div_add_mod' num den
  have hmod := Nat.mod_lt num hden
  have hj : j + 1 ≤ num / den ∧ j * den + den ≤ num / den * den ∨ j = num / den ∨ j = num / den + 1 ∨
      num / den + 2 ≤ j ∧ num / den * den + 2 * den ≤ j * den := by
    have below (h : j + 1 ≤ num / den) := Nat.mul_le_mul_right den h
    have above (h : num / den + 2 ≤ j) := Nat.mul_le_mul_right den h
    simp only [add_mul, one_mul] at below above
    omega
  have hnext : (num / den + 1) * den = num / den * den + den := by ring
  unfold roundNearestEven
  simp only [quotDist, ← Nat.cast_mul]
  rcases hj with ⟨hlt, hfar⟩ | rfl | rfl | ⟨hgt, hfar⟩ <;> split <;> omega

/-! ### Magnitude bits as numbers -/

/-- The power of two that magnitude bits `m` are counted in: 2^0 for subnormals and the first binade. -/
def magScale (m : Nat) : Nat := m / 2 ^ 23 - 1

/-- The magnitude of bits `m` in units of 2^-149, with no upper end to the exponent. -/
def magUnits (m : Nat) : Nat := (m - magScale m * 2 ^ 23) * 2 ^ magScale m

/-- Bits `k * 2^23 + r` stand for `r * 2^k`, also where `r` carries into the next binade. -/
theorem magUnits_scaled {k r : Nat} (hk : k = 0 ∨ 2 ^ 23 ≤ r) (hr : r ≤ 2 ^ 24) :
    magUnits (k * 2 ^ 23 + r) = r * 2 ^ k := by
  unfold magUnits
  rcases Nat.lt_or_eq_of_le hr with hlt | rfl
  · have hscale : magScale (k * 2 ^ 23 + r) = k := by unfold magScale; omega
    rw [hscale, Nat.add_sub_cancel_left]
  · have hscale : magScale (k * 2 ^ 23 + 2 ^ 24) = k + 1 := by unfold magScale; omega
    have hcarry : k * 2 ^ 23 + 2 ^ 24 - (k + 1) * 2 ^ 23 = 2 ^ 23 := by omega
    rw [hscale, hcarry]
    ring

theorem exists_scaled (m : Nat) : ∃ k r, m = k * 2 ^ 23 + r ∧ (k = 0 ∨ 2 ^ 23 ≤ r) ∧ r < 2 ^ 24 :=
  ⟨magScale m, m - magScale m * 2 ^ 23, by unfold magScale; omega, by unfold magScale; omega,
    by unfold magScale; omega⟩

theorem magUnits_strictMono : StrictMono magUnits := by
  refine strictMono_nat_of_lt_succ fun m => ?_
  obtain ⟨k, r, rfl, hk, hr⟩ := exists_scaled m
  rw [add_assoc, magUnits_scaled hk hr.le, magUnits_scaled (by omega) hr]
  exact Nat.mul_lt_mul_of_pos_right (Nat.lt_succ_self r) (Nat.two_pow_pos k)

theorem magUnits_zero : magUnits 0 = 0 := by decide

/-- A magnitude of a binade below the one with spacing 2^k lies under that binade. -/
theorem magUnits_lt_of_scale_lt {k k' r : Nat} (hk : k' < k) (hr : r < 2 ^ 24) : r * 2 ^ k' < 2 ^ 23 * 2 ^ k :=
  calc r * 2 ^ k' < 2 ^ 24 * 2 ^ k' := Nat.mul_lt_mul_of_pos_right hr (Nat.two_pow_pos k')
    _ = 2 ^ 23 * 2 ^ (k' + 1) := by ring
    _ ≤ 2 ^ 23 * 2 ^ k := Nat.mul_le_mul_left _ (Nat.pow_le_pow_right (by decide) hk)

/-! ### Rounding to magnitude bits -/

/-- The power of two that `num / den` is rounded to a multiple of. -/
def roundScale (num den : Nat) : Nat := Nat.log2 (num / den) - 23

/-- The rounded magnitude bits before the overflow to infinity. -/
def roundBits (num den : Nat) : Nat :=
  roundScale num den * 2 ^ 23 + roundNearestEven num (den * 2 ^ roundScale num den)

theorem roundMag_eq_min (num den : Nat) : roundMag num den = min 0x7F800000 (roundBits num den) := rfl

/-- At the chosen scale the quotient has 24 bits, or fewer at scale 0. -/
theorem div_roundScale_bounds (num den : Nat) :
    (roundScale num den = 0 ∨ 2 ^ 23 ≤ num / (den * 2 ^ roundScale num den)) ∧
    num / (den * 2 ^ roundScale num den) < 2 ^ 24 := by
  rw [← Nat.div_div_eq_div_mul, Nat.div_lt_iff_lt_mul (Nat.two_pow_pos _), Nat.le_div_iff_mul_le (Nat.two_pow_pos _),
    ← pow_add, ← pow_add]
  unfold roundScale
  constructor
  · rcases Nat.eq_zero_or_pos (Nat.log2 (num / den) - 23) with h | h
    · exact .inl h
    · have hq : num / den ≠ 0 := by rintro hq; simp [hq] at h
      rw [show 23 + (Nat.log2 (num / den) - 23) = Nat.log2 (num / den) by omega]
      exact .inr (Nat.log2_self_le hq)
  · exact Nat.lt_of_lt_of_le Nat.lt_log2_self (Nat.pow_le_pow_right (by decide) (by omega))

theorem magUnits_roundBits (num den : Nat) : magUnits (roundBits num den) =
    roundNearestEven num (den * 2 ^ roundScale num den) * 2 ^ roundScale num den := by
  obtain ⟨hlow, hhigh⟩ := div_roundScale_bounds num den
  obtain ⟨hge, hle⟩ := roundNearestEven_bounds num (den * 2 ^ roundScale num den)
  exact magUnits_scaled (by omega) (by omega)

/-- The rounded bits are nearest among all magnitudes, and even where another is as near. -/
theorem roundBits_nearest {den : Nat} (num m : Nat) (hden : 0 < den) :
    quotDist (magUnits (roundBits num den)) num den ≤ quotDist (magUnits m) num den ∧
    (quotDist (magUnits (roundBits num den)) num den = quotDist (magUnits m) num den →
      magUnits m ≠ magUnits (roundBits num den) → roundBits num den % 2 = 0) := by
  have hscaled : 0 < den * 2 ^ roundScale num den := Nat.mul_pos hden (Nat.two_pow_pos _)
  have hparity : roundBits num den % 2 = roundNearestEven num (den * 2 ^ roundScale num den) % 2 := by
    unfold roundBits; omega
  obtain ⟨k, r, rfl, hk, hr⟩ := exists_scaled m
  rw [magUnits_scaled hk hr.le, magUnits_roundBits, hparity, quotDist_mul_right]
  rcases Nat.lt_or_ge k (roundScale num den) with hlt | hge
  · -- a magnitude of a lower binade is farther than the low end of the quotient's binade
    have hlow : 2 ^ 23 * 2 ^ roundScale num den * den ≤ num := by
      have h := ((div_roundScale_bounds num den).1.resolve_left (by omega))
      rw [Nat.le_div_iff_mul_le hscaled] at h
      calc _ = 2 ^ 23 * (den * 2 ^ roundScale num den) := by ring
        _ ≤ num := h
    have hfar := quotDist_lt_of_lt hden (magUnits_lt_of_scale_lt hlt hr) hlow
    rw [quotDist_mul_right (2 ^ 23)] at hfar
    have hnear := (roundNearestEven_nearest num (2 ^ 23) hscaled).1
    omega
  · -- every other magnitude is an integer multiple of the spacing
    have hmul : r * 2 ^ k = r * 2 ^ (k - roundScale num den) * 2 ^ roundScale num den := by
      rw [mul_assoc, ← pow_add, Nat.sub_add_cancel hge]
    rw [hmul, quotDist_mul_right]
    obtain ⟨hle, htie⟩ := roundNearestEven_nearest num (r * 2 ^ (k - roundScale num den)) hscaled
    exact ⟨hle, fun heq hne => htie heq (by rintro h; exact hne (by rw [h]))⟩

/-- A quotient that is a magnitude rounds to its own bits. -/
theorem roundBits_exact {num den m : Nat} (hden : 0 < den) (h : magUnits m * den = num) : roundBits num den = m := by
  subst h
  have hle := (roundBits_nearest (magUnits m * den) m hden).1
  rw [quotDist_eq_zero_iff.2 rfl, Nat.le_zero, quotDist_eq_zero_iff] at hle
  exact magUnits_strictMono.injective (Nat.eq_of_mul_eq_mul_right hden hle)

/-- The quotient overflows exactly from the midpoint beyond the largest finite magnitude on. -/
theorem le_roundBits_iff {num den : Nat} (hden : 0 < den) :
    0x7F800000 ≤ roundBits num den ↔ (2 ^ 25 - 1) * 2 ^ 252 * den ≤ num := by
  have hinf : magUnits 0x7F800000 = 2 ^ 277 := by decide +kernel
  have hlast : magUnits 0x7F7FFFFF = 2 ^ 277 - 2 ^ 253 := by decide +kernel
  constructor
  · intro h
    have hbits : 2 ^ 277 * den ≤ magUnits (roundBits num den) * den :=
      Nat.mul_le_mul_right den (hinf ▸ magUnits_strictMono.monotone h)
    have hnear := (roundBits_nearest num 0x7F7FFFFF hden).1
    rw [hlast] at hnear
    simp only [quotDist, ← Nat.cast_mul] at hnear
    omega
  · intro hover
    by_contra hlt
    have hbits : magUnits (roundBits num den) ≤ magUnits 0x7F7FFFFF :=
      magUnits_strictMono.monotone (by omega)
    have hscaled := Nat.mul_le_mul_right den hbits
    obtain ⟨hnear, htie⟩ := roundBits_nearest num 0x7F800000 hden
    rw [hinf] at hnear htie
    rw [hlast] at hbits hscaled
    simp only [quotDist, ← Nat.cast_mul] at hnear htie
    have heq : magUnits (roundBits num den) * den = (2 ^ 277 - 2 ^ 253) * den := by omega
    have hodd : roundBits num den = 0x7F7FFFFF :=
      magUnits_strictMono.injective (by rw [hlast]; exact Nat.eq_of_mul_eq_mul_right hden heq)
    have heven := htie (by omega) (by omega)
    omega

/-! ### The fields of a word -/

/-- Bits 30:0, the exponent and the fraction together. -/
def magBits (a : Word) : Nat := a.toNat % 2 ^ 31

theorem fisFinite_iff (a : Word) : fisFinite a = true ↔ magBits a < 0x7F800000 := by
  simp only [fisFinite, fexp, magBits, bne_iff_ne]
  omega

theorem fisInf_iff (a : Word) : fisInf a = true ↔ magBits a = 0x7F800000 := by
  simp only [fisInf, fexp, ffrac, magBits, Bool.and_eq_true, beq_iff_eq]
  omega

theorem fisNaN_iff (a : Word) : fisNaN a = true ↔ 0x7F800000 < magBits a := by
  simp only [fisNaN, fexp, ffrac, magBits, Bool.and_eq_true, beq_iff_eq, bne_iff_ne]
  omega

theorem fisNaN_of_finite {a : Word} (h : fisFinite a = true) : fisNaN a = false := by
  rw [← Bool.not_eq_true, fisNaN_iff]
  rw [fisFinite_iff] at h
  omega

theorem fisInf_of_finite {a : Word} (h : fisFinite a = true) : fisInf a = false := by
  rw [← Bool.not_eq_true, fisInf_iff]
  rw [fisFinite_iff] at h
  omega

/-- `fmag` is `magUnits` of the word's magnitude bits. -/
theorem fmag_eq_magUnits (a : Word) : fmag a = magUnits (magBits a) := by
  have hexp : fexp a = magBits a / 2 ^ 23 := by unfold fexp magBits; omega
  have hfrac : ffrac a = magBits a % 2 ^ 23 := by unfold ffrac magBits; omega
  unfold fmag magUnits magScale
  rw [hexp, hfrac]
  split
  · next hzero => rw [hzero, zero_tsub, pow_zero, mul_one]; omega
  · rw [show 2 ^ 23 + magBits a % 2 ^ 23 = magBits a - (magBits a / 2 ^ 23 - 1) * 2 ^ 23 by omega]

theorem natAbs_funits (a : Word) : (funits a).natAbs = fmag a := by
  unfold funits
  split <;> omega

/-! ### Packed words -/

theorem toNat_fpack {neg : Bool} {m : Nat} (hm : m < 2 ^ 31) :
    (fpack neg m).toNat = m + if neg then 2 ^ 31 else 0 := by
  rw [fpack, BitVec.toNat_ofNat, Nat.mod_eq_of_lt]
  split <;> omega

theorem fsign_fpack {neg : Bool} {m : Nat} (hm : m < 2 ^ 31) : fsign (fpack neg m) = neg := by
  rw [fsign, BitVec.getLsbD, toNat_fpack hm, Nat.testBit_eq_decide_div_mod_eq]
  cases neg
  · rw [decide_eq_false_iff_not]; simp only [Bool.false_eq_true, if_false]; omega
  · rw [decide_eq_true_iff]; simp only [if_true]; omega

theorem magBits_fpack {neg : Bool} {m : Nat} (hm : m < 2 ^ 31) : magBits (fpack neg m) = m := by
  rw [magBits, toNat_fpack hm]
  split <;> omega

theorem fmag_fpack {neg : Bool} {m : Nat} (hm : m < 2 ^ 31) : fmag (fpack neg m) = magUnits m := by
  rw [fmag_eq_magUnits, magBits_fpack hm]

theorem getLsbD_zero_fpack {neg : Bool} {m : Nat} (hm : m < 2 ^ 31) (heven : m % 2 = 0) :
    (fpack neg m).getLsbD 0 = false := by
  rw [BitVec.getLsbD, toNat_fpack hm, Nat.testBit_zero, decide_eq_false_iff_not]
  split <;> omega

theorem roundMag_lt (num den : Nat) : roundMag num den < 2 ^ 31 := by
  rw [roundMag_eq_min]
  omega

/-! ### Signed rounding -/

/-- A sign bit fits a value: set for a negative one, clear for a positive one, either for zero. -/
def SignFits (neg : Bool) (y : Int) : Prop := if neg then y ≤ 0 else 0 ≤ y

theorem signFits_zero (neg : Bool) : SignFits neg 0 := by
  cases neg <;> exact le_refl (0 : Int)

theorem signFits_decide (y : Int) : SignFits (decide (y < 0)) y := by
  unfold SignFits
  split
  · next h => exact (of_decide_eq_true h).le
  · next h => exact not_lt.1 fun hlt => h (decide_eq_true hlt)

theorem signFits_funits (a : Word) : SignFits (fsign a) (funits a) := by
  unfold SignFits funits
  split <;> omega

theorem SignFits.mul {s t : Bool} {x y : Int} (hx : SignFits s x) (hy : SignFits t y) : SignFits (s != t) (x * y) := by
  cases s <;> cases t
  · exact mul_nonneg hx hy
  · exact mul_nonpos_of_nonneg_of_nonpos hx hy
  · exact mul_nonpos_of_nonpos_of_nonneg hx hy
  · exact mul_nonneg_of_nonpos_of_nonpos hx hy

theorem SignFits.mul_nonneg {s : Bool} {x y : Int} (hx : SignFits s x) (hy : 0 ≤ y) : SignFits s (x * y) := by
  rw [← Bool.bne_false s]
  exact hx.mul (t := false) hy

theorem SignFits.sign {s : Bool} {x : Int} (hx : SignFits s x) : SignFits s x.sign := by
  cases s
  · exact Int.sign_nonneg_iff.2 hx
  · exact Int.sign_nonpos_iff.2 hx

/-- A word is no nearer to a signed value than its magnitude is to the value's. -/
theorem quotDist_fmag_le (c : Word) (y : Int) (den : Nat) :
    quotDist (fmag c) y.natAbs den ≤ (funits c * den - y).natAbs := by
  unfold quotDist funits
  split
  · rw [neg_mul, ← Nat.cast_mul]; omega
  · rw [← Nat.cast_mul]; omega

/-- With a fitting sign the two distances are the same. -/
theorem quotDist_fmag_eq {w : Word} {y : Int} (hsign : SignFits (fsign w) y) (den : Nat) :
    (funits w * den - y).natAbs = quotDist (fmag w) y.natAbs den := by
  unfold quotDist funits
  rw [← Nat.cast_mul]
  cases hs : fsign w <;> rw [hs] at hsign
  · have hy : 0 ≤ y := hsign
    rw [if_neg Bool.false_ne_true, ← Nat.cast_mul]
    omega
  · have hy : y ≤ 0 := hsign
    rw [if_pos rfl, neg_mul, ← Nat.cast_mul]
    omega

/-- Of two opposite values, only one is at a given distance from a nonzero quotient. -/
theorem funits_eq_of_dist_eq {c w : Word} {y : Int} {den : Nat} (hden : 0 < den) (hy : y ≠ 0) (hmag : fmag c = fmag w)
    (hdist : (funits w * den - y).natAbs = (funits c * den - y).natAbs) : funits c = funits w := by
  rw [← natAbs_funits, ← natAbs_funits, Int.natAbs_eq_natAbs_iff] at hmag
  rcases hmag with hsame | hopp
  · exact hsame
  · rw [hopp, neg_mul] at hdist
    have hzero : funits w * den = 0 := by omega
    have hw : funits w = 0 := (mul_eq_zero.1 hzero).resolve_right (by omega)
    rw [hopp, hw, neg_zero]

/-- The word of a sign and the rounded magnitude bits of `num / den`: every operation on finite operands ends in one
(`fadd_of_finite`, `fmul_of_finite`, `fdiv_of_finite`). -/
def roundWord (neg : Bool) (num den : Nat) : Word := fpack neg (roundMag num den)

theorem fsign_roundWord (neg : Bool) (num den : Nat) : fsign (roundWord neg num den) = neg :=
  fsign_fpack (roundMag_lt num den)

theorem fisNaN_roundWord (neg : Bool) (num den : Nat) : fisNaN (roundWord neg num den) = false := by
  rw [← Bool.not_eq_true, fisNaN_iff, roundWord, magBits_fpack (roundMag_lt num den), roundMag_eq_min]
  omega

theorem fisInf_roundWord {neg : Bool} {num den : Nat} (hden : 0 < den) :
    fisInf (roundWord neg num den) = true ↔ (2 ^ 25 - 1) * 2 ^ 252 * den ≤ num := by
  rw [fisInf_iff, roundWord, magBits_fpack (roundMag_lt num den), roundMag_eq_min, ← le_roundBits_iff hden]
  omega

/-- A finite rounded word holds the rounded bits: no overflow cut them off. -/
theorem roundWord_of_finite {neg : Bool} {num den : Nat} (hfin : fisFinite (roundWord neg num den) = true) :
    roundMag num den = roundBits num den ∧ fmag (roundWord neg num den) = magUnits (roundBits num den) := by
  rw [fisFinite_iff, roundWord, magBits_fpack (roundMag_lt num den)] at hfin
  have hbits : roundMag num den = roundBits num den := by rw [roundMag_eq_min] at hfin ⊢; omega
  exact ⟨hbits, by rw [roundWord, fmag_fpack (roundMag_lt num den), hbits]⟩

/-- The rounded word is nearest to the signed quotient among all words, and even where another value is as near. -/
theorem roundWord_nearest {neg : Bool} {y : Int} {den : Nat} (hden : 0 < den) (hsign : SignFits neg y)
    (hfin : fisFinite (roundWord neg y.natAbs den) = true) (c : Word) :
    (funits (roundWord neg y.natAbs den) * den - y).natAbs ≤ (funits c * den - y).natAbs ∧
    ((funits (roundWord neg y.natAbs den) * den - y).natAbs = (funits c * den - y).natAbs →
      funits c ≠ funits (roundWord neg y.natAbs den) → (roundWord neg y.natAbs den).getLsbD 0 = false) := by
  obtain ⟨hbits, hmag⟩ := roundWord_of_finite hfin
  obtain ⟨hnear, htie⟩ := roundBits_nearest y.natAbs (magBits c) hden
  rw [← fmag_eq_magUnits, ← hmag] at hnear htie
  have hsame := quotDist_fmag_eq (w := roundWord neg y.natAbs den) (by rwa [fsign_roundWord]) den
  have hother := quotDist_fmag_le c y den
  refine ⟨by omega, fun heq hne => getLsbD_zero_fpack (roundMag_lt _ _) ?_⟩
  rw [hbits]
  rcases eq_or_ne y 0 with rfl | hy
  · rw [roundBits_exact hden (m := 0) (by rw [magUnits_zero, zero_mul, Int.natAbs_zero])]
  · exact htie (by omega) fun hmagEq => hne (funits_eq_of_dist_eq hden hy hmagEq heq)

/-! ### The operations on finite operands -/

/-- The sign `fadd` gives: that of the sum, and of an exact zero sum the sign both operands share, else +. -/
def faddSign (a b : Word) : Bool :=
  if funits a + funits b = 0 then fsign a && fsign b else decide (funits a + funits b < 0)

theorem signFits_faddSign (a b : Word) : SignFits (faddSign a b) (funits a + funits b) := by
  unfold faddSign
  split
  · next hzero => rw [hzero]; exact signFits_zero _
  · exact signFits_decide _

theorem roundMag_zero_one : roundMag 0 1 = 0 := by decide

theorem fadd_of_finite {a b : Word} (ha : fisFinite a = true) (hb : fisFinite b = true) :
    fadd a b = roundWord (faddSign a b) (funits a + funits b).natAbs 1 := by
  unfold fadd faddSign roundWord
  rw [fisNaN_of_finite ha, fisNaN_of_finite hb, fisInf_of_finite ha, fisInf_of_finite hb]
  by_cases hzero : funits a + funits b = 0
  · simp [hzero, roundMag_zero_one]
  · simp [hzero]

theorem fmul_of_finite {a b : Word} (ha : fisFinite a = true) (hb : fisFinite b = true) :
    fmul a b = roundWord (fsign a != fsign b) (funits a * funits b).natAbs (2 ^ 149) := by
  unfold fmul roundWord
  rw [fisNaN_of_finite ha, fisNaN_of_finite hb, fisInf_of_finite ha, fisInf_of_finite hb, Int.natAbs_mul,
    natAbs_funits, natAbs_funits]
  rfl

/-- The signed numerator of `fdiv`: the divisor's sign is taken over, so that the denominator is its magnitude. -/
def fdivNum (a b : Word) : Int := funits a * 2 ^ 149 * (funits b).sign

theorem signFits_fdivNum (a b : Word) : SignFits (fsign a != fsign b) (fdivNum a b) :=
  ((signFits_funits a).mul_nonneg (by decide)).mul (signFits_funits b).sign

theorem natAbs_fdivNum (a : Word) {b : Word} (hb : funits b ≠ 0) :
    (fdivNum a b).natAbs = (funits a).natAbs * 2 ^ 149 := by
  rw [fdivNum, Int.natAbs_mul, Int.natAbs_mul, Int.natAbs_sign_of_ne_zero hb, mul_one]
  rfl

theorem fdiv_of_finite {a b : Word} (ha : fisFinite a = true) (hb : fisFinite b = true) (hb0 : funits b ≠ 0) :
    fdiv a b = roundWord (fsign a != fsign b) (fdivNum a b).natAbs (funits b).natAbs := by
  have hmag : fmag b ≠ 0 := by rwa [← natAbs_funits, Int.natAbs_ne_zero]
  unfold fdiv roundWord
  rw [fisNaN_of_finite ha, fisNaN_of_finite hb, fisInf_of_finite ha, fisInf_of_finite hb, if_neg hmag,
    natAbs_fdivNum a hb0, natAbs_funits, natAbs_funits]
  rfl

/-- A distance to a quotient by a signed divisor, as one to a quotient by its magnitude. -/
theorem natAbs_mul_sub_eq_of_sign (u x : Int) {d : Int} (hd : d ≠ 0) :
    (u * d - x).natAbs = (u * d.natAbs - x * d.sign).natAbs := by
  rcases Int.lt_or_gt_of_ne hd with hneg | hpos
  · rw [Int.sign_eq_neg_one_of_neg hneg, Int.ofNat_natAbs_of_nonpos hneg.le, ← Int.natAbs_neg]
    ring_nf
  · rw [Int.sign_eq_one_of_pos hpos, Int.natAbs_of_nonneg hpos.le, mul_one]

/-! ### The obligations -/

/-- Settles O35 (00_scope.md R10, R14): `fadd` is one signed rounding of the sum, over the denominator 1. -/
theorem addRoundsToNearestEven : Obligations.AddRoundsToNearestEven := by
  intro a b ha hb
  have hadd := fadd_of_finite ha hb
  refine ⟨?nan, ?inf, ?sign, ?zero, rfl, ?nearest⟩
  case nan => rw [hadd, fisNaN_roundWord]
  case inf => rw [hadd, fisInf_roundWord one_pos, mul_one]
  case sign =>
    intro hne
    rw [hadd, fsign_roundWord, faddSign, if_neg hne, decide_eq_true_iff]
  case zero =>
    intro hzero
    rw [hadd, faddSign, if_pos hzero, hzero, Int.natAbs_zero, roundWord, roundMag_zero_one]
    cases fsign a && fsign b <;> rfl
  case nearest =>
    intro hfin c _
    rw [hadd] at hfin ⊢
    simpa only [Nat.cast_one, mul_one] using roundWord_nearest one_pos (signFits_faddSign a b) hfin c

/-- Settles O36 (00_scope.md R10, R14): `fmul` is one signed rounding of the product, which is in units of 2^-298. -/
theorem mulRoundsToNearestEven : Obligations.MulRoundsToNearestEven := by
  intro a b ha hb
  rw [fmul_of_finite ha hb]
  refine ⟨fisNaN_roundWord _ _ _, fsign_roundWord _ _ _, fisInf_roundWord (Nat.two_pow_pos 149), ?nearest⟩
  case nearest =>
    intro hfin c _
    exact roundWord_nearest (Nat.two_pow_pos 149) ((signFits_funits a).mul (signFits_funits b)) hfin c

/-- Settles O37 (00_scope.md R10, R14): `fdiv` is one signed rounding of the quotient by the divisor's magnitude. -/
theorem divRoundsToNearestEven : Obligations.DivRoundsToNearestEven := by
  intro a b ha hb hb0
  have hden : 0 < (funits b).natAbs := Int.natAbs_pos.2 hb0
  rw [fdiv_of_finite ha hb hb0]
  refine ⟨fisNaN_roundWord _ _ _, fsign_roundWord _ _ _, ?inf, ?nearest⟩
  case inf => rw [fisInf_roundWord hden, natAbs_fdivNum a hb0]
  case nearest =>
    intro hfin c _
    simp only [natAbs_mul_sub_eq_of_sign _ _ hb0]
    exact roundWord_nearest hden (signFits_fdivNum a b) hfin c

/-- Every integer up to 2^24 is a finite magnitude: it has at most 24 significant bits. -/
theorem exists_magUnits_eq_integer {n : Nat} (hn : n ≤ 2 ^ 24) : ∃ m < 0x7F800000, magUnits m = n * 2 ^ 149 := by
  rcases Nat.eq_zero_or_pos n with rfl | hpos
  · exact ⟨0, by decide, by rw [magUnits_zero, zero_mul]⟩
  obtain ⟨e, he, hlow, hhigh⟩ : ∃ e ≤ 23, 2 ^ e ≤ n ∧ n ≤ 2 ^ (e + 1) := by
    rcases Nat.lt_or_ge (Nat.log2 n) 24 with hlt | hge
    · exact ⟨Nat.log2 n, by omega, Nat.log2_self_le (by omega), Nat.lt_log2_self.le⟩
    · have htop := Nat.pow_le_pow_right (n := 2) (by decide) hge
      have hself := Nat.log2_self_le (n := n) (by omega)
      exact ⟨23, le_refl _, by omega, hn⟩
  have hr : 2 ^ 23 ≤ n * 2 ^ (23 - e) ∧ n * 2 ^ (23 - e) ≤ 2 ^ 24 :=
    ⟨calc 2 ^ 23 = 2 ^ e * 2 ^ (23 - e) := by rw [← pow_add, Nat.add_sub_cancel' he]
        _ ≤ _ := Nat.mul_le_mul_right _ hlow,
      calc _ ≤ 2 ^ (e + 1) * 2 ^ (23 - e) := Nat.mul_le_mul_right _ hhigh
        _ = 2 ^ 24 := by rw [← pow_add]; congr 1; omega⟩
  refine ⟨(126 + e) * 2 ^ 23 + n * 2 ^ (23 - e), by omega, ?_⟩
  rw [magUnits_scaled (.inr hr.1) hr.2, mul_assoc, ← pow_add]
  congr 2
  omega

/-- Settles O38 (00_scope.md R14): the integer is itself a magnitude, and a magnitude rounds to its own bits. -/
theorem integerConversionExact : Obligations.IntegerConversionExact := by
  intro n hn
  obtain ⟨m, hm, hunits⟩ := exists_magUnits_eq_integer hn
  have hword : f32 n = fpack (decide (n < 0)) m := by
    rw [f32, roundMag_eq_min, roundBits_exact one_pos (by rw [mul_one]; exact hunits), min_eq_right hm.le]
  have hlt : m < 2 ^ 31 := by omega
  rw [hword]
  refine ⟨by rw [fisFinite_iff, magBits_fpack hlt]; exact hm, ?_⟩
  rw [funits, fsign_fpack hlt, fmag_fpack hlt, hunits, Nat.cast_mul]
  split
  · next hneg => rw [Int.ofNat_natAbs_of_nonpos (of_decide_eq_true hneg).le, neg_mul, neg_neg]; rfl
  · next hpos => rw [Int.natAbs_of_nonneg (not_lt.1 fun h => hpos (decide_eq_true h))]; rfl

end Sys2Proof.Machine
end

section
/-! PROOFS. What every command does, said once (`exec_ends`): it completes with the code of 60_exceptions.md R223, having
made the one write of its kind, or none. What commands keep (10_state.md R31 to R37, 43_control.md R202) is read off the
cases; that the scratch is not read (10_state.md R40) needs the encoder's stages compared. -/

namespace Sys2Proof.Machine

/-! ### The checks of the commands are those of the error table -/

theorem inRange_eq_within (v lo hi : Int) : inRange v lo hi = within v lo hi := by
  simp [inRange, within]

theorem rangeError_of_not {ok : Bool} (h : ¬ ok = true) : rangeError ok = .outOfRange := by
  rw [Bool.eq_false_of_not_eq_true h]; rfl

/-- `CheckDst` (41_palette.md R142) raises what the error table says. -/
theorem checkDst_eq_outError (s : State) : checkDst s s.argInt0 = outError s := by
  unfold checkDst outError dstValid
  cases s.operands.bufcfg.getLsbD 1 with
  | false => rfl
  | true =>
    simp only [Bool.true_eq_false, if_false, if_true]
    by_cases hfits : outFits s = true
    · rw [hfits]
      simp only [outFits, Bool.and_eq_true, decide_eq_true_eq] at hfits
      rw [if_neg (by omega), if_neg (by omega)]
      rfl
    · rw [rangeError_of_not hfits]
      simp only [outFits, Bool.and_eq_true, decide_eq_true_eq] at hfits
      by_cases hcapacity : s.argInt0 < 0 ∨ (s.operands.dstLen.toNat : Int) - s.argInt0 < 8
      · rw [if_pos hcapacity]
      · rw [if_neg hcapacity, if_pos (by omega)]

/-- A GET_RVALUES that raises no error has room for its eight words (41_palette.md R142). -/
theorem outIndex_fits {s : State} (h : outError s = .none) : s.outIndex + 8 ≤ s.params.outWords := by
  have hfits : outFits s = true := by
    unfold outError at h
    split at h
    · by_contra hno
      rw [rangeError_of_not hno] at h
      cases h
    · cases h
  simp only [outFits, Bool.and_eq_true, decide_eq_true_eq] at hfits
  obtain ⟨⟨hpos, -⟩, hout⟩ := hfits
  unfold State.outIndex
  omega

/-! ### The ways a command ends -/

/-- The ways command `i` can end from `s`: with the code of the error table and no write; or without an error, with its
result, its block, an encode's block, ENC_INFO and scratch, or eight palette entries in OUT. -/
inductive CommandEnds (i : Instr) (s : State) : State → Prop
  | noWrite : CommandEnds i s (s.finish (commandError i s))
  | result (v : Word) (hi : writesResult i = true) (he : commandError i s = .none) : CommandEnds i s (s.finishResult v)
  | block (slot : Slot) (b : Block) (hi : writesBlock i = some slot) (he : commandError i s = .none) :
      CommandEnds i s (s.finishBlock slot b)
  | encode (ch : Channel) (slot : Slot) (samples : List Word) (hi : isEncode i = true) (hb : writesBlock i = some slot)
      (he : commandError i s = .none) (hload : loadValues s = some samples) :
      CommandEnds i s (s.finishEncode ch slot (s.encodeScratch ch samples))
  | out (pal : List Word) (hlen : pal.length = 8) (hi : writesOut i = true) (he : commandError i s = .none)
      (hfits : s.outIndex + 8 ≤ s.params.outWords) : CommandEnds i s (s.outWriteAll s.outIndex pal).complete

theorem commandEnds_raiseError {i : Instr} {s : State} {c : ErrCode} (hc : commandError i s = c) :
    CommandEnds i s (s.raiseError c) := hc ▸ .noWrite

/-- A command whose one check is a range: the error when it fails. -/
theorem commandEnds_ite {i : Instr} {s u : State} {ok : Bool} (hc : commandError i s = rangeError ok)
    (hu : commandError i s = .none → CommandEnds i s u) :
    CommandEnds i s (if ok then u else s.raiseError .outOfRange) := by
  split
  · next hok => exact hu (by rw [hc, hok]; rfl)
  · next hok => exact commandEnds_raiseError (by rw [hc, rangeError_of_not hok])

theorem getEntry_ends {i : Instr} {s : State} (pal : List Word) (hi : writesResult i = true)
    (hc : commandError i s = rangeError (within s.argInt0 0 7)) : CommandEnds i s (getEntry pal s) := by
  unfold getEntry slotOk
  rw [inRange_eq_within]
  exact commandEnds_ite hc (.result _ hi)

theorem writePalette_ends {i : Instr} {s : State} {pal : List Word} (hlen : pal.length = 8) (hi : writesOut i = true)
    (hc : commandError i s = outError s) : CommandEnds i s (writePalette pal s) := by
  unfold writePalette
  rw [checkDst_eq_outError]
  split
  · next hnone => exact .out pal hlen hi (hc.trans hnone) (outIndex_fits hnone)
  · exact commandEnds_raiseError hc

theorem srcError_eq (s : State) :
    srcError s = if srcValid s.operands.bufcfg then .none else .missingArgument := rfl

theorem encodeChannel_ends {i : Instr} {ch : Channel} {slot : Slot} {s t : State} (hi : isEncode i = true)
    (hb : writesBlock i = some slot) (hc : commandError i s = srcError s) (h : encodeChannel ch slot s = .next t) :
    CommandEnds i s t := by
  rcases encodeChannel_cases h with ⟨hvalid, rfl⟩ | ⟨hvalid, samples, hload, rfl⟩
  · exact commandEnds_raiseError (hc.trans (by rw [srcError_eq, hvalid]; rfl))
  · exact .encode ch slot samples hi hb (hc.trans (by rw [srcError_eq, hvalid]; rfl)) hload

theorem setEndpoint_ends {i : Instr} {s : State} {ch : Channel} {slot : Slot} {ep : Ep} (hi : writesBlock i = some slot)
    (hc : commandError i s = rangeError (epWriteOk s.argInt3 ch)) : CommandEnds i s (setEndpoint ch slot ep s) :=
  commandEnds_ite hc (.block slot _ hi)

theorem next_ite {c : Prop} [Decidable c] (t u : State) :
    (if c then .next t else .next u : Host.Outcome State Fault Refusal) = .next (if c then t else u) := by
  split <;> rfl

/-- Everything a command that answers can do. -/
theorem exec_ends {i : Instr} {s t : State} (h : exec i s = .next t) : CommandEnds i s t := by
  cases i with
  | nop => cases h; exact .noWrite
  | encodeU slot => exact encodeChannel_ends rfl rfl rfl h
  | encodeS slot => exact encodeChannel_ends rfl rfl rfl h
  | getEpU slot ep => cases h; exact .result _ rfl rfl
  | getEpS slot ep => cases h; exact .result _ rfl rfl
  | setEpU slot ep => cases h; exact setEndpoint_ends rfl (by rw [epWriteOk, inRange_eq_within]; rfl)
  | setEpS slot ep => cases h; exact setEndpoint_ends rfl (by rw [epWriteOk, inRange_eq_within]; rfl)
  | getIdx slot =>
    simp only [exec, execGetIdx, next_ite, indexOk, inRange_eq_within] at h
    cases h
    exact commandEnds_ite rfl (.result _ rfl)
  | setIdx slot =>
    simp only [exec, execSetIdx, next_ite, indexOk, slotOk, inRange_eq_within] at h
    cases h
    exact commandEnds_ite rfl (.block slot _ rfl)
  | getIdxXY slot =>
    simp only [exec, execGetIdxXY, next_ite, coordOk, inRange_eq_within] at h
    cases h
    exact commandEnds_ite rfl (.result _ rfl)
  | setIdxXY slot =>
    simp only [exec, execSetIdxXY, next_ite, coordOk, slotOk, inRange_eq_within] at h
    cases h
    exact commandEnds_ite rfl (.block slot _ rfl)
  | getRUI slot => cases h; exact getEntry_ends _ rfl rfl
  | getRUF slot => cases h; exact getEntry_ends _ rfl rfl
  | getRSI slot => cases h; exact getEntry_ends _ rfl rfl
  | getRSF slot => cases h; exact getEntry_ends _ rfl rfl
  | getRValuesUI slot => cases h; exact writePalette_ends (palIntWords_length _ _) rfl rfl
  | getRValuesUF slot => cases h; exact writePalette_ends (palF_length _ _) rfl rfl
  | getRValuesSI slot => cases h; exact writePalette_ends (palIntWords_length _ _) rfl rfl
  | getRValuesSF slot => cases h; exact writePalette_ends (palF_length _ _) rfl rfl

/-! ### What commands keep -/

/-- Settles O55 (10_state.md R32, 43_control.md R202): each way a command ends keeps the operand registers. -/
theorem commandsKeepOperands : Obligations.CommandsKeepOperands := by
  intro i s t h
  cases exec_ends h with
  | noWrite => exact (raiseError_keeps s _).operands
  | result v => obtain ⟨-, -, hkeep⟩ := finishResult_spec s v; exact hkeep.operands
  | block slot b => obtain ⟨-, -, hkeep⟩ := finishBlock_spec s slot b; exact hkeep.operands
  | encode ch slot samples => obtain ⟨-, -, -, -, hkeep⟩ := finishEncode_spec s ch slot _; exact hkeep.operands
  | out pal => obtain ⟨-, -, hkeep⟩ := outWriteAll_complete_spec s s.outIndex pal; exact hkeep.operands

/-- Settles O56 (10_state.md R31, R33, R37; 20_memory.md R52, R53): each way a command ends writes what its kind says. -/
theorem commandsWriteOnlyTheirResults : Obligations.CommandsWriteOnlyTheirResults := by
  intro i s t h
  cases exec_ends h with
  | noWrite =>
    obtain ⟨-, hresult, hinfo, hblock, -, hmem⟩ := raiseError_keeps s (commandError i s)
    exact ⟨fun _ => hresult, fun _ => hinfo, fun sl _ => hblock sl, fun _ => hmem, fun a _ => hmem a,
      fun _ _ a _ => hmem a⟩
  | result v hi he =>
    obtain ⟨-, -, -, hinfo, hblock, -, hmem⟩ := finishResult_spec s v
    exact ⟨by simp [hi, he], fun _ => hinfo, fun sl _ => hblock sl, fun _ => hmem, fun a _ => hmem a,
      fun _ _ a _ => hmem a⟩
  | block slot b hi he =>
    obtain ⟨-, -, -, hresult, hinfo, -, -, hmem⟩ := finishBlock_spec s slot b
    refine ⟨fun _ => hresult, fun _ => hinfo, fun sl hsl => ?_, fun _ => hmem, fun a _ => hmem a, fun _ _ a _ => hmem a⟩
    exact State.finishBlock_block_ne _ _ _ _ (by simpa [hi, he, eq_comm] using hsl)
  | encode ch slot samples hi hb he =>
    obtain ⟨-, -, -, -, -, hresult, -, hmem⟩ := finishEncode_spec s ch slot (s.encodeScratch ch samples)
    refine ⟨fun _ => hresult, by simp [hi, he], fun sl hsl => ?_, fun _ => hmem, fun a _ => hmem a, fun _ _ a _ => hmem a⟩
    exact State.finishEncode_block_ne _ _ _ _ _ (by simpa [hb, he, eq_comm] using hsl)
  | out pal hlen hi he =>
    obtain ⟨-, -, -, hresult, hinfo, hblock, -, hmem⟩ := outWriteAll_complete_spec s s.outIndex pal
    rw [hlen] at hmem
    refine ⟨fun _ => hresult, fun _ => hinfo, fun sl _ => hblock sl, by simp [hi, he], fun a ha => ?_, fun _ _ => hmem⟩
    exact hmem a (.inl (by unfold outOffset; omega))

/-! ### The scratch a command finds -/

/-- The state with another scratch. -/
def State.setScratch (s : State) (sc : Scratch) : State := { s with sc := sc }

@[simp] theorem State.setScratch_operands (s : State) (sc : Scratch) : (s.setScratch sc).operands = s.operands := rfl
@[simp] theorem State.setScratch_argInt0 (s : State) (sc : Scratch) : (s.setScratch sc).argInt0 = s.argInt0 := rfl
@[simp] theorem State.setScratch_argInt1 (s : State) (sc : Scratch) : (s.setScratch sc).argInt1 = s.argInt1 := rfl
@[simp] theorem State.setScratch_argInt3 (s : State) (sc : Scratch) : (s.setScratch sc).argInt3 = s.argInt3 := rfl
@[simp] theorem State.setScratch_outIndex (s : State) (sc : Scratch) : (s.setScratch sc).outIndex = s.outIndex := rfl
@[simp] theorem State.setScratch_block (s : State) (sc : Scratch) (sl : Slot) :
    (s.setScratch sc).block sl = s.block sl := by cases sl <;> rfl
@[simp] theorem State.setScratch_complete (s : State) (sc : Scratch) :
    (s.setScratch sc).complete = s.complete.setScratch sc := rfl
@[simp] theorem State.setScratch_raiseError (s : State) (sc : Scratch) (c : ErrCode) :
    (s.setScratch sc).raiseError c = (s.raiseError c).setScratch sc := rfl
@[simp] theorem State.setScratch_finishResult (s : State) (sc : Scratch) (v : Word) :
    (s.setScratch sc).finishResult v = (s.finishResult v).setScratch sc := rfl
@[simp] theorem State.setScratch_finishBlock (s : State) (sc : Scratch) (sl : Slot) (b : Block) :
    (s.setScratch sc).finishBlock sl b = (s.finishBlock sl b).setScratch sc := by cases sl <;> rfl
@[simp] theorem State.setScratch_outWriteAll (s : State) (sc : Scratch) (j : Nat) (ws : List Word) :
    (s.setScratch sc).outWriteAll j ws = (s.outWriteAll j ws).setScratch sc := by
  induction ws generalizing s j with
  | nil => rfl
  | cons w ws ih => exact ih (s.outWrite j w) (j + 1)
@[simp] theorem checkDst_setScratch (s : State) (sc : Scratch) (off : Int) :
    checkDst (s.setScratch sc) off = checkDst s off := rfl
@[simp] theorem loadValues_setScratch (s : State) (sc : Scratch) : loadValues (s.setScratch sc) = loadValues s := rfl

theorem setEndpoint_setScratch (ch : Channel) (slot : Slot) (ep : Ep) (s : State) (sc : Scratch) :
    setEndpoint ch slot ep (s.setScratch sc) = (setEndpoint ch slot ep s).setScratch sc := by
  simp only [setEndpoint, State.setScratch_argInt3, State.setScratch_block, State.setScratch_finishBlock,
    State.setScratch_raiseError]
  split <;> rfl

theorem getEntry_setScratch (pal : List Word) (s : State) (sc : Scratch) :
    getEntry pal (s.setScratch sc) = (getEntry pal s).setScratch sc := by
  cases hslot : slotOk s.argInt0 <;> simp [getEntry, hslot]

theorem writePalette_setScratch (pal : List Word) (s : State) (sc : Scratch) :
    writePalette pal (s.setScratch sc) = (writePalette pal s).setScratch sc := by
  simp only [writePalette, State.setScratch_argInt0, checkDst_setScratch, State.setScratch_outIndex,
    State.setScratch_outWriteAll, State.setScratch_complete, State.setScratch_raiseError]
  split <;> rfl

theorem exec_setScratch {i : Instr} (hi : isEncode i = false) (s : State) (sc : Scratch) :
    ∃ t, exec i s = .next t ∧ exec i (s.setScratch sc) = .next (t.setScratch sc) := by
  cases i with
  | nop => exact ⟨_, rfl, rfl⟩
  | encodeU slot => cases hi
  | encodeS slot => cases hi
  | getEpU slot ep => exact ⟨_, rfl, by simp [exec, execGetEpU, getEndpoint]⟩
  | getEpS slot ep => exact ⟨_, rfl, by simp [exec, execGetEpS, getEndpoint]⟩
  | setEpU slot ep => exact ⟨_, rfl, congrArg _ (setEndpoint_setScratch _ _ _ _ _)⟩
  | setEpS slot ep => exact ⟨_, rfl, congrArg _ (setEndpoint_setScratch _ _ _ _ _)⟩
  | getIdx slot =>
    simp only [exec, execGetIdx, getIndex, State.setScratch_argInt0, State.setScratch_block,
      State.setScratch_finishResult, State.setScratch_raiseError]
    split <;> exact ⟨_, rfl, rfl⟩
  | setIdx slot =>
    simp only [exec, execSetIdx, setIndex, State.setScratch_argInt0, State.setScratch_argInt3, State.setScratch_block,
      State.setScratch_finishBlock, State.setScratch_raiseError]
    split <;> exact ⟨_, rfl, rfl⟩
  | getIdxXY slot =>
    simp only [exec, execGetIdxXY, getIndex, State.setScratch_argInt0, State.setScratch_argInt1,
      State.setScratch_block, State.setScratch_finishResult, State.setScratch_raiseError]
    split <;> exact ⟨_, rfl, rfl⟩
  | setIdxXY slot =>
    simp only [exec, execSetIdxXY, setIndex, State.setScratch_argInt0, State.setScratch_argInt1,
      State.setScratch_argInt3, State.setScratch_block, State.setScratch_finishBlock, State.setScratch_raiseError]
    split <;> exact ⟨_, rfl, rfl⟩
  | getRUI slot => exact ⟨_, rfl, by simp [exec, execGetRUI, getEntry_setScratch]⟩
  | getRUF slot => exact ⟨_, rfl, by simp [exec, execGetRUF, getEntry_setScratch]⟩
  | getRSI slot => exact ⟨_, rfl, by simp [exec, execGetRSI, getEntry_setScratch]⟩
  | getRSF slot => exact ⟨_, rfl, by simp [exec, execGetRSF, getEntry_setScratch]⟩
  | getRValuesUI slot => exact ⟨_, rfl, by simp [exec, execGetRValuesUI, writePalette_setScratch]⟩
  | getRValuesUF slot => exact ⟨_, rfl, by simp [exec, execGetRValuesUF, writePalette_setScratch]⟩
  | getRValuesSI slot => exact ⟨_, rfl, by simp [exec, execGetRValuesSI, writePalette_setScratch]⟩
  | getRValuesSF slot => exact ⟨_, rfl, by simp [exec, execGetRValuesSF, writePalette_setScratch]⟩

/-! ### The encoder's stages read no scratch but what they wrote -/

/-- Two scratches that agree on what the Newton loop and the stages after it read. -/
structure SameSpan (a b : Scratch) : Prop where
  samples : a.samples = b.samples
  n : a.n = b.n
  x : a.x = b.x
  y : a.y = b.y
  iter : a.iter = b.iter

theorem SameSpan.initialBracket {a b : Scratch} (hsamples : a.samples = b.samples) (hmin : a.min = b.min)
    (hmax : a.max = b.max) (hn : a.n = b.n) (ch : Channel) :
    SameSpan { initialBracket ch a with iter := 0 } { initialBracket ch b with iter := 0 } := by
  cases hb : b.n <;> constructor <;> simp [Machine.initialBracket, hn, hb, hsamples, hmin, hmax]

theorem SameSpan.beforeNewton {a b : Scratch} (h : a.samples = b.samples) (ch : Channel) :
    SameSpan (beforeNewton ch a) (beforeNewton ch b) :=
  SameSpan.initialBracket (by simp [h]) (by simp [scanMinMax, h]) (by simp [scanMinMax, h])
    (by simp [chooseScheme, scanMinMax, h]) ch

theorem SameSpan.iterationSums {a b : Scratch} (h : SameSpan a b) (ch : Channel) :
    iterationSums ch a = iterationSums ch b := by
  simp only [Machine.iterationSums, h.samples, h.n, h.x, h.y]

theorem SameSpan.rangeStop {a b : Scratch} (h : SameSpan a b) : rangeStop a = rangeStop b := by
  simp only [Machine.rangeStop, h.x, h.y]

theorem SameSpan.applySums {a b : Scratch} (h : SameSpan a b) (ch : Channel) (sums : Sums) :
    SameSpan (applySums ch a sums) (applySums ch b sums) := by
  constructor <;> simp only [Machine.applySums, h.samples, h.n, h.x, h.y, h.iter]

theorem SameSpan.newtonLoop {a b : Scratch} (h : SameSpan a b) (ch : Channel) (k : Nat) :
    SameSpan (newtonLoop ch k a) (newtonLoop ch k b) := by
  induction k generalizing a b with
  | zero => exact h
  | succ k ih =>
    simp only [newtonLoop_succ, h.rangeStop, h.iterationSums ch]
    split
    · exact h
    · split
      · exact h.applySums ch _
      · exact ih (h.applySums ch _)

theorem SameSpan.clampEnds {a b : Scratch} (h : SameSpan a b) (ch : Channel) :
    SameSpan (clampEnds ch a) (clampEnds ch b) := by
  constructor <;> simp only [Machine.clampEnds, h.samples, h.n, h.x, h.y, h.iter]

theorem SameSpan.endA {a b : Scratch} (h : SameSpan a b) : endA a = endA b := by
  simp only [Machine.endA, h.n, h.x, h.y]

theorem SameSpan.endB {a b : Scratch} (h : SameSpan a b) : endB a = endB b := by
  simp only [Machine.endB, h.n, h.x, h.y]

theorem encodeStages_eq (ch : Channel) (sc : Scratch) : encodeStages ch sc =
    findClosest (buildPalette ch (quantize ch (clampEnds ch (newtonLoop ch newtonBound (beforeNewton ch sc))))) := rfl

/-- The samples alone decide an encode's block, its iteration count and its mode (42_encoder.md R160). -/
theorem encodeStages_congr {ch : Channel} {a b : Scratch} (h : a.samples = b.samples) :
    encodedBlock (encodeStages ch a) = encodedBlock (encodeStages ch b) ∧
      (encodeStages ch a).iter = (encodeStages ch b).iter ∧ (encodeStages ch a).n = (encodeStages ch b).n := by
  have hspan := ((SameSpan.beforeNewton h ch).newtonLoop ch newtonBound).clampEnds ch
  simp only [encodeStages_eq, findClosest_iter, buildPalette_iter, quantize_iter, findClosest_n, buildPalette_n, quantize_n]
  refine ⟨?_, hspan.iter, hspan.n⟩
  simp only [encodedBlock, findClosest, buildPalette, quantize, hspan.samples, hspan.endA, hspan.endB]

theorem finishEncode_setScratch (s : State) (ch : Channel) (slot : Slot) (sc : Scratch) {a b : Scratch}
    (hblock : encodedBlock a = encodedBlock b) (hiter : a.iter = b.iter) (hn : a.n = b.n) :
    ((s.setScratch sc).finishEncode ch slot a).setScratch b = s.finishEncode ch slot b := by
  cases slot <;> simp [State.finishEncode, State.setBlock, State.setScratch, State.complete, State.finish, hblock, hiter, hn]

theorem encodeChannel_setScratch (ch : Channel) (slot : Slot) (s : State) (sc : Scratch) :
    (∀ t, encodeChannel ch slot s = .next t →
      ∃ t', encodeChannel ch slot (s.setScratch sc) = .next t' ∧ t'.setScratch t.sc = t) ∧
    (∀ f, encodeChannel ch slot s = .fault f → encodeChannel ch slot (s.setScratch sc) = .fault f) := by
  cases hvalid : srcValid s.operands.bufcfg with
  | true =>
    cases hload : loadValues s with
    | none => simp [encodeChannel, hvalid, hload]
    | some samples =>
      simp only [encodeChannel, State.setScratch_operands, loadValues_setScratch, hvalid, hload, if_true]
      refine ⟨?_, by simp⟩
      rintro t ⟨rfl⟩
      obtain ⟨hblock, hiter, hn⟩ := encodeStages_congr (ch := ch) (a := { sc with samples := samples })
        (b := { s.sc with samples := samples }) rfl
      refine ⟨_, rfl, ?_⟩
      rw [State.finishEncode_sc]
      exact finishEncode_setScratch s ch slot sc hblock hiter hn
  | false =>
    simp only [encodeChannel, State.setScratch_operands, hvalid, Bool.false_eq_true, if_false]
    refine ⟨?_, by simp⟩
    rintro t ⟨rfl⟩
    exact ⟨_, rfl, rfl⟩

/-- Settles O57 (10_state.md R40): an ENCODE writes what it reads of the scratch first; no other command looks at it. -/
theorem scratchNeverRead : Obligations.ScratchNeverRead := by
  intro i s sc
  cases hi : isEncode i with
  | false =>
    obtain ⟨t, hexec, hother⟩ := exec_setScratch hi s sc
    refine ⟨fun u hu => ?_, fun f hf => ?_⟩
    · cases hexec.symm.trans hu
      exact ⟨_, hother, rfl⟩
    · cases hexec.symm.trans hf
  | true =>
    cases i with
    | encodeU slot => exact encodeChannel_setScratch .unsigned slot s sc
    | encodeS slot => exact encodeChannel_setScratch .signed slot s sc
    | _ => cases hi

end Sys2Proof.Machine
end

section
/-! PROOFS. The host's accesses and the steps of the machine. An aligned 32-bit access of the window is the bus operation on
its target (`hostRead_window`, `hostWrite_window`); what stands at each offset (20_memory.md R51) is said once, and the
tables of the statements are the registers at their offsets. -/

namespace Sys2Proof.Machine

/-! ### Accesses of the window -/

/-- An access at offset 0x3000 or beyond covers no byte of the window (20_memory.md R58). -/
theorem touchesWindow_outside (p : Params) (width : BusWidth) {o : Nat} (ho : 0x3000 ≤ o) :
    touchesWindow p width (p.coreBase + o) = false := by
  simp [touchesWindow, ho]

theorem touchesWindow_word (p : Params) {o : Nat} (ho : o < 0x3000) : touchesWindow p .w32 (p.coreBase + o) = true := by
  simp [touchesWindow, BusWidth.bytes, ho, Nat.add_assoc]

theorem accessDefined_word (p : Params) {o : Nat} (h4 : o % 4 = 0) : accessDefined p .w32 (p.coreBase + o) = true := by
  simp [accessDefined, h4]

theorem hostRead_window (s : State) {o : Nat} (ho : o < 0x3000) (h4 : o % 4 = 0) :
    s.hostRead .w32 (s.params.coreBase + o) = .next (s.busRead (s.params.coreBase + o) (busTarget s.params o)) := by
  rw [State.hostRead, touchesWindow_word _ ho, accessDefined_word _ h4, Nat.add_sub_cancel_left]
  rfl

theorem hostWrite_window (s : State) (v : Word) {o : Nat} (ho : o < 0x3000) (h4 : o % 4 = 0) :
    s.hostWrite .w32 (s.params.coreBase + o) v = .next (s.busWrite v (busTarget s.params o)) := by
  rw [State.hostWrite, touchesWindow_word _ ho, accessDefined_word _ h4, Nat.add_sub_cancel_left]
  rfl

/-- A read of a word that has a value now is recorded with it, and nothing else changes (20_memory.md R59). -/
theorem busRead_specified (s : State) (addr : Nat) {t : BusTarget}
    (h : statusBusy s.status = false ∨ unspecifiedWhileBusy t = false) :
    s.busRead addr t = { s with readLog := (addr, s.targetRead t) :: s.readLog } := by
  unfold State.busRead
  rw [if_neg (by rcases h with h | h <;> simp [h])]

theorem targetRead_setScript (s : State) (rest : List HostAction) (t : BusTarget) :
    ({ s with script := rest } : State).targetRead t = s.targetRead t := by
  cases t with
  | reg r => cases r <;> rfl
  | _ => rfl

theorem targetWrite_setScript (s : State) (rest : List HostAction) (v : Word) (t : BusTarget) :
    ({ s with script := rest } : State).targetWrite v t = { s.targetWrite v t with script := rest } := by
  cases t with
  | reg r => cases r <;> rfl
  | _ => rfl

/-- A step whose next action reads a word of the window that has a value now. -/
theorem step_read {s : State} {o : Nat} {rest : List HostAction} {t : BusTarget}
    (h : s.script = .read .w32 (s.params.coreBase + o) :: rest) (ho : o < 0x3000) (h4 : o % 4 = 0)
    (ht : busTarget s.params o = t) (hspec : statusBusy s.status = false ∨ unspecifiedWhileBusy t = false) :
    step s = .next { s with script := rest, readLog := (s.params.coreBase + o, s.targetRead t) :: s.readLog } := by
  subst ht
  rw [step_cons h, act, hostRead_window { s with script := rest } ho h4,
    busRead_specified { s with script := rest } _ hspec, targetRead_setScript]

/-- A step whose next action writes a word of the window with no command in execution. -/
theorem step_write_idle {s : State} {o : Nat} {v : Word} {rest : List HostAction} {t : BusTarget}
    (h : s.script = .write .w32 (s.params.coreBase + o) v :: rest) (ho : o < 0x3000) (h4 : o % 4 = 0)
    (ht : busTarget s.params o = t) (hidle : statusBusy s.status = false) :
    step s = .next { s.targetWrite v t with script := rest } := by
  subst ht
  rw [step_cons h, act, hostWrite_window { s with script := rest } v ho h4,
    busWrite_idle { s with script := rest } v _ hidle, targetWrite_setScript]

/-! ### What stands at each offset -/

theorem Reg.offset_lt (r : Reg) : r.offset < 0x3000 := by cases r <;> decide

theorem Reg.offset_aligned (r : Reg) : r.offset % 4 = 0 := by cases r <;> decide

theorem Reg.offset_cases (r : Reg) : r.offset < 0x38 ∨ (0x40 ≤ r.offset ∧ r.offset < 0x50) := by cases r <;> decide

theorem busTarget_srcOffset {p : Params} {j : Nat} (hp : p.wf = true) (hj : j < p.srcWords) :
    busTarget p (srcOffset j) = .src j := by
  simp only [Params.wf, Bool.and_eq_true, decide_eq_true_eq] at hp
  have hdiv : (srcOffset j - 0x1000) / 4 = j := by unfold srcOffset; omega
  rw [busTarget, if_neg (by unfold srcOffset; omega), if_pos (by unfold srcOffset; omega), hdiv, if_pos hj]

theorem busTarget_outOffset {p : Params} {j : Nat} (hj : j < p.outWords) : busTarget p (outOffset j) = .out j := by
  have hdiv : (outOffset j - 0x2000) / 4 = j := by unfold outOffset; omega
  rw [busTarget, if_neg (by unfold outOffset; omega), if_neg (by unfold outOffset; omega), hdiv, if_pos hj]

/-- The reserved offsets of the window (20_memory.md R51, R58). -/
theorem busTarget_reserved {p : Params} {o : Nat}
    (ho : o = 0x38 ∨ o = 0x3C ∨ (0x50 ≤ o ∧ o < 0x1000) ∨ (0x1000 + 4 * p.srcWords ≤ o ∧ o < 0x2000) ∨
      (0x2000 + 4 * p.outWords ≤ o ∧ o < 0x3000)) : busTarget p o = .reserved := by
  unfold busTarget
  split
  · have hnone : allRegs.find? (fun r => r.offset == o) = none := by
      rw [List.find?_eq_none]
      intro r _ hr
      have := r.offset_cases
      have : r.offset = o := by simpa using hr
      omega
    rw [hnone]
  · split
    · rw [if_neg (by omega)]
    · rw [if_neg (by omega)]

/-! ### Reads with no command in execution -/

/-- A word none of whose bits lies outside a mask is its own masked value. -/
theorem and_mask_of_reserved {w m : Word} (h : w &&& ~~~m = 0) : w &&& m = w := by
  apply BitVec.eq_of_getLsbD_eq
  intro i hi
  have hbit : (w &&& ~~~m).getLsbD i = false := by rw [h]; exact BitVec.getLsbD_zero
  rw [BitVec.getLsbD_and, BitVec.getLsbD_not] at hbit
  rw [BitVec.getLsbD_and]
  cases hw : w.getLsbD i <;> simp_all

theorem step_read_reg {s : State} (hidle : statusBusy s.status = false) (r : Reg) {rest : List HostAction}
    (h : s.script = .read .w32 (s.params.coreBase + r.offset) :: rest) :
    step s = .next { s with script := rest, readLog := (s.params.coreBase + r.offset, s.regRead r) :: s.readLog } :=
  step_read h r.offset_lt r.offset_aligned (busTarget_reg _ r) (.inl hidle)

/-- Settles O8 (10_state.md R22 to R37): the table is the registers at their offsets, and the reserved bits that a read
masks are 0 by the invariant. -/
theorem readsWhenIdle : Obligations.ReadsWhenIdle := by
  intro s rest hinv hidle
  obtain ⟨⟨⟨-, hsrc⟩, -⟩, hout⟩ : ((_ ∧ s.params.srcWords ≤ 1024) ∧ _) ∧ s.params.outWords ≤ 1024 := by
    simpa only [Params.wf, Bool.and_eq_true, decide_eq_true_eq] using hinv.params
  refine ⟨?_, fun j hj h => ?_, fun j hj h => ?_⟩
  · obtain ⟨hstatus0, -⟩ := hinv.status
    obtain ⟨hinfo0, -⟩ := hinv.encInfo
    have hstatus : s.status &&& statusMask = s.status := and_mask_of_reserved hstatus0
    have hinfo : s.encInfo &&& encInfoMask = s.encInfo := and_mask_of_reserved hinfo0
    have hbufcfg : s.live.bufcfg &&& bufcfgMask = s.live.bufcfg := and_mask_of_reserved hinv.bufcfg
    intro c hc h
    have hreg : c ∈ allRegs.map (fun r => (r.offset, s.regRead r)) := by
      simpa only [allRegs, List.map, Reg.offset, State.regRead, hstatus, hinfo, hbufcfg] using hc
    obtain ⟨r, -, rfl⟩ := List.mem_map.1 hreg
    exact step_read_reg hidle r h
  · rw [Nat.add_assoc] at h ⊢
    exact step_read h (by omega) (by omega) (busTarget_srcOffset hinv.params hj) (.inl hidle)
  · rw [Nat.add_assoc] at h ⊢
    exact step_read h (by omega) (by omega) (busTarget_outOffset hj) (.inl hidle)

/-! ### Writes -/

theorem step_write_reg {s : State} (hidle : statusBusy s.status = false) (r : Reg) {v : Word} {rest : List HostAction}
    (h : s.script = .write .w32 (s.params.coreBase + r.offset) v :: rest) :
    step s = .next { s.regWrite v r with script := rest } :=
  step_write_idle h r.offset_lt r.offset_aligned (busTarget_reg _ r) hidle

/-- Settles O9 (10_state.md R22, R23, R32 to R37): the table is every register but CMD at its offset. -/
theorem registerWritesWhenIdle : Obligations.RegisterWritesWhenIdle := by
  intro s v rest hidle c hc h
  have hreg : c ∈ [Reg.id, .status, .encInfo, .result, .arg0, .arg1, .arg2, .arg3, .bufcfg, .srcBase, .srcLen, .dstBase,
      .dstLen, .block0Lo, .block0Hi, .block1Lo, .block1Hi].map (fun r => (r.offset, s.regWrite v r)) := hc
  obtain ⟨r, -, rfl⟩ := List.mem_map.1 hreg
  exact step_write_reg hidle r h

/-- Settles O6 (10_state.md R29, 70_reset_and_hazards.md R257). -/
theorem writesWhileBusyOnlySetOverrun : Obligations.WritesWhileBusyOnlySetOverrun := by
  intro s o v rest hbusy ho h4 h
  refine ⟨{ s with status := statusAtOverrun s.status, script := rest }, ?_, statusOverrun_atOverrun _, fun n hn => ?_, rfl⟩
  · rw [step_cons h, act, hostWrite_window { s with script := rest } v ho h4, busWrite_busy { s with script := rest } v _ hbusy]
  · rw [getLsbD_atOverrun, decide_eq_false hn, Bool.or_false]

/-- Settles O11 (20_memory.md R58). -/
theorem reservedAndOutsideOffsets : Obligations.ReservedAndOutsideOffsets := by
  refine ⟨fun s o v rest h4 ho => ⟨fun h => ?_, fun hidle h => ?_⟩, fun s width o v rest ho h => ?_⟩
  · exact step_read h (by omega) h4 (busTarget_reserved ho) (.inr rfl)
  · exact step_write_idle h (by omega) h4 (busTarget_reserved ho) hidle
  · rcases h with h | h
    · rw [step_cons h, act, State.hostRead, touchesWindow_outside _ _ ho]
      rfl
    · rw [step_cons h, act, State.hostWrite, touchesWindow_outside _ _ ho]
      rfl

/-! ### Issue, completion and reset -/

theorem coreStep_busy {s : State} {w : Word} {a : Args} {i : Instr} (hseq : s.seq = .busy w a) (hi : decode w = .ok i) :
    coreStep s = exec i s := by
  simp [coreStep, hseq, hi]

theorem coreStep_idle {s : State} (hseq : s.seq = .idle) : coreStep s = .next s := by
  simp [coreStep, hseq]

/-- Settles O4 (10_state.md R25, R41; 70_reset_and_hazards.md R263). -/
theorem stepRunsDecodedCommand : Obligations.StepRunsDecodedCommand :=
  ⟨fun _ _ _ _ hseq hi h => (step_nil h).trans (coreStep_busy hseq hi),
    fun _ _ _ _ _ hseq hi h => (step_cons h).trans (coreStep_busy hseq hi),
    fun _ hseq h => (step_nil h).trans (coreStep_idle hseq)⟩

/-- Settles O5 (10_state.md R25): the write is the issue, and the step after it runs the word. -/
theorem cmdWriteIssues : Obligations.CmdWriteIssues := by
  intro s v rest hidle h
  obtain ⟨hnil, hcons, -⟩ := stepRunsDecodedCommand
  exact ⟨_, step_write_reg hidle .cmd h, statusBusy_atIssue, statusDone_atIssue, statusOverrun_atIssue, statusErr_atIssue,
    rfl, rfl, fun i hi => ⟨fun hrest => hnil _ _ _ i rfl hi hrest, fun later hrest => hcons _ _ _ i later rfl hi hrest⟩⟩

/-- Settles O14 (70_reset_and_hazards.md R250, R251). -/
theorem resetGivesResetValues : Obligations.ResetGivesResetValues := by
  refine ⟨fun s rest h => ⟨_, step_cons h, ?_⟩, ?_⟩
  · refine ⟨rfl, rfl, rfl, rfl, rfl, rfl, rfl, rfl, rfl, rfl, rfl, rfl, rfl, rfl, rfl, rfl, fun _ => rfl, rfl, rfl, rfl⟩
  · refine ⟨rfl, rfl, rfl, rfl, rfl, rfl, rfl, rfl, rfl, rfl, rfl, rfl, rfl, rfl, rfl, rfl, fun _ => rfl, ?_, ?_⟩
    · intro ep ch
      cases ep <;> cases ch <;> decide
    · decide

end Sys2Proof.Machine
end

section
/-! PROOFS. The invariant of the machine holds at reset and every step keeps it. What can touch its clauses is a reset, a
host access (an issue, OVERRUN, a register, four bytes of memory) or a completion; the last is read off `exec_ends`. -/

namespace Sys2Proof.Machine

/-! ### The invariant after reset -/

theorem scratchGood_reset : scratchGood Scratch.reset := by
  unfold scratchGood
  decide

theorem inv_resetWith {p : Params} (hp : p.wf = true) : Inv (State.resetWith p) where
  params := hp
  status := by
    have hidle : statusBusy (State.resetWith p).status = false := by
      change statusBusy 0 = false
      decide
    have hnot : ¬ statusBusy (State.resetWith p).status = true := by rw [hidle]; decide
    have hrest : (0 : Word) &&& ~~~statusMask = 0 ∧ statusErr 0 ≤ 3 := by decide
    obtain ⟨hreserved, herr⟩ := hrest
    exact ⟨hreserved, herr, ⟨fun hbusy => absurd hbusy hnot, fun hne => absurd rfl hne⟩,
      fun hbusy => absurd hbusy hnot, fun _ _ => rfl⟩
  encInfo := ⟨by simp [State.resetWith], by simp [State.resetWith], fun _ => rfl⟩
  bufcfg := by simp [State.resetWith, Args.reset]
  snapshot := rfl
  mem := ⟨List.Pairwise.nil, fun _ h => nomatch h⟩
  scratch := scratchGood_reset

/-- Settles O59 (70_reset_and_hazards.md R250). -/
theorem invariantAtReset : Obligations.InvariantAtReset := inv_resetWith (by decide)

/-! ### What the invariant does not look at -/

/-- The environment's fields are not the invariant's. -/
theorem Inv.setEnvironment {s : State} (h : Inv s) (epoch draws : Nat) (script : List HostAction)
    (readLog : List (Nat × Word)) :
    Inv { s with epoch := epoch, draws := draws, script := script, readLog := readLog } :=
  ⟨h.params, h.status, h.encInfo, h.bufcfg, h.snapshot, h.mem, h.scratch⟩

theorem Inv.resetEvent {s : State} (h : Inv s) : Inv s.resetEvent := (inv_resetWith h.params).setEnvironment _ _ _ _

/-- BUSY and the sequencer agree. -/
theorem Inv.seq_idle {s : State} (h : Inv s) (hidle : statusBusy s.status = false) : s.seq = .idle := by
  obtain ⟨-, -, hseq, -, -⟩ := h.status
  by_contra hne
  rw [hseq.2 hne] at hidle
  cases hidle

/-! ### The host's accesses keep the invariant -/

theorem Inv.busRead {s : State} (h : Inv s) (addr : Nat) (t : BusTarget) : Inv (s.busRead addr t) := by
  obtain ⟨v, d, heq⟩ := busRead_cases s addr t
  rw [heq]
  exact h.setEnvironment _ _ _ _

/-- An issue: BUSY and the sequencer together, and the snapshot of the live registers (10_state.md R25, R41). -/
theorem Inv.issue {s : State} (h : Inv s) (w : Word) : Inv (s.issue w) where
  params := h.params
  status := ⟨reserved_atIssue, by simp, by simp, by simp, by simp⟩
  encInfo := h.encInfo
  bufcfg := h.bufcfg
  snapshot := rfl
  mem := h.mem
  scratch := h.scratch

/-- A write during BUSY (10_state.md R29). -/
theorem Inv.overrun {s : State} (h : Inv s) (hbusy : statusBusy s.status = true) :
    Inv { s with status := statusAtOverrun s.status } where
  params := h.params
  status := by
    obtain ⟨hreserved, herr, hseq, hwhile, -⟩ := h.status
    exact ⟨by rw [reserved_atOverrun, hreserved], by simpa using herr, by simpa using hseq, by simpa using hwhile,
      by simp [hbusy]⟩
  encInfo := h.encInfo
  bufcfg := h.bufcfg
  snapshot := h.snapshot
  mem := h.mem
  scratch := h.scratch

/-- With the sequencer idle the live registers are their own snapshot. -/
theorem Inv.setLive {s : State} (h : Inv s) (hseq : s.seq = .idle) {live : Args}
    (hlive : live.bufcfg &&& ~~~bufcfgMask = 0) : Inv { s with live := live } :=
  ⟨h.params, h.status, h.encInfo, hlive, State.operands_idle { s with live := live } hseq, h.mem, h.scratch⟩

theorem Inv.setBlocks {s : State} (h : Inv s) (block0 block1 : Block) :
    Inv { s with block0 := block0, block1 := block1 } :=
  ⟨h.params, h.status, h.encInfo, h.bufcfg, h.snapshot, h.mem, h.scratch⟩

theorem masked_reserved (v m : Word) : v &&& m &&& ~~~m = 0 := by
  rw [BitVec.and_assoc, BitVec.and_not_self]
  exact BitVec.and_zero

theorem Inv.regWrite {s : State} (h : Inv s) (hidle : statusBusy s.status = false) (v : Word) (r : Reg) :
    Inv (s.regWrite v r) := by
  have hseq := h.seq_idle hidle
  cases r with
  | id | status | encInfo | result => exact h
  | cmd => exact h.issue v
  | bufcfg => exact h.setLive hseq (masked_reserved v _)
  | arg0 | arg1 | arg2 | arg3 | srcBase | srcLen | dstBase | dstLen => exact h.setLive hseq h.bufcfg
  | block0Lo | block0Hi | block1Lo | block1Hi => exact h.setBlocks _ _

/-- A word written where four bytes of SRC or OUT stand. -/
theorem Inv.writeWord {s : State} (h : Inv s) {o : Nat} (w : Word)
    (ho : ∀ a, o ≤ a → a < o + 4 → memOffset s.params a = true) : Inv { s with mem := s.mem.writeWord o w } where
  params := h.params
  status := h.status
  encInfo := h.encInfo
  bufcfg := h.bufcfg
  snapshot := h.snapshot
  mem := by
    obtain ⟨hwf, hmem⟩ := h.mem
    refine ⟨Memory.wf_writeWord hwf o w, fun c hc => ?_⟩
    rcases Memory.mem_writeWord hc with ⟨hlow, hhigh⟩ | hold
    · exact ho _ hlow hhigh
    · exact hmem c hold
  scratch := h.scratch

theorem memOffset_src {p : Params} {j a : Nat} (hj : j < p.srcWords) (hlow : srcOffset j ≤ a)
    (hhigh : a < srcOffset j + 4) : memOffset p a = true := by
  simp only [memOffset, srcOffset, Bool.or_eq_true, Bool.and_eq_true, decide_eq_true_eq] at *
  omega

theorem memOffset_out {p : Params} {j n a : Nat} (hj : j + n ≤ p.outWords) (hlow : outOffset j ≤ a)
    (hhigh : a < outOffset j + 4 * n) : memOffset p a = true := by
  simp only [memOffset, outOffset, Bool.or_eq_true, Bool.and_eq_true, decide_eq_true_eq] at *
  omega

/-- A host write keeps the invariant at every word of the window (20_memory.md R51). -/
theorem Inv.busWrite {s : State} (h : Inv s) (v : Word) (o : Nat) : Inv (s.busWrite v (busTarget s.params o)) := by
  cases hbusy : statusBusy s.status with
  | true => rw [busWrite_busy _ _ _ hbusy]; exact h.overrun hbusy
  | false =>
    rw [busWrite_idle _ _ _ hbusy]
    cases ht : busTarget s.params o with
    | reg r => exact h.regWrite hbusy v r
    | src j => exact h.writeWord v fun a => memOffset_src (busTarget_src ht)
    | out j => exact h.writeWord v fun a => memOffset_out (n := 1) (busTarget_out ht)
    | reserved => exact h

/-! ### Completion keeps the invariant -/

/-- STATUS at completion (10_state.md R27 to R30). -/
theorem statusGood_of_completedWith {c : ErrCode} {s t : State} (h : CompletedWith c s t) : statusGood t := by
  refine ⟨h.reserved, ?_, by simp [h.seq, h.busy], by simp [h.busy], by simp [h.done]⟩
  rw [h.err]
  cases c <;> decide

/-- A completion keeps the operand registers, so ENC_INFO, memory and the scratch are what is left to show. -/
theorem Inv.completed {c : ErrCode} {s t : State} (h : Inv s) (hdone : CompletedWith c s t) (hkeep : KeepsOperands s t)
    (hinfo : encInfoGood t) (hmem : memGood t) (hsc : scratchGood t.sc) : Inv t where
  params := by rw [hkeep.params]; exact h.params
  status := statusGood_of_completedWith hdone
  encInfo := hinfo
  bufcfg := by rw [hkeep.live]; exact h.bufcfg
  snapshot := State.operands_idle t hdone.seq
  mem := hmem
  scratch := hsc

theorem Inv.finish {s : State} (h : Inv s) (c : ErrCode) : Inv (s.finish c) :=
  h.completed (finish_completed s c) (raiseError_keeps s c).operands h.encInfo h.mem h.scratch

/-- The stages after the Newton loop fill PAL and IDX (42_encoder.md R177 to R180). -/
theorem scratchGood_stages {ch : Channel} {sc : Scratch} (hsamples : sc.samples.length = 16) (hsteps : sc.steps.length = 8)
    (hiter : sc.iter ≤ 8) : scratchGood (findClosest (buildPalette ch (quantize ch (clampEnds ch sc)))) := by
  have hpal : (buildPalette ch (quantize ch (clampEnds ch sc))).pal.length = 8 := palF_length _ _
  simp only [scratchGood, findClosest_samples, findClosest_steps, findClosest_pal, findClosest_idx, findClosest_iter, hpal,
    buildPalette_samples, buildPalette_steps, buildPalette_iter, quantize_samples, quantize_steps, quantize_iter,
    clampEnds_samples, clampEnds_steps, clampEnds_iter, List.length_map, List.mem_map]
  refine ⟨hsamples, hsteps, trivial, hsamples, ?_, hiter⟩
  rintro v ⟨p, -, rfl⟩
  exact closest_lt _ p hpal

/-- The pipeline leaves the scratch in its shape (10_state.md R39, 42_encoder.md R160, R169). -/
theorem scratchGood_encodeStages {ch : Channel} {sc : Scratch} (hsamples : sc.samples.length = 16)
    (hsteps : sc.steps.length = 8) : scratchGood (encodeStages ch sc) := by
  rw [encodeStages_eq]
  refine scratchGood_stages ?_ ?_ ?_
  · rw [newtonLoop_samples]
    simp [beforeNewton, hsamples]
  · exact newtonLoop_steps_length ch _ _ (by simp [beforeNewton, hsteps])
  · exact newtonLoop_iter_le ch newtonBound (beforeNewton ch sc)

theorem encInfoGood_encInfoWord {t : State} {iters : Nat} {six signed : Bool} (h : t.encInfo = encInfoWord iters six signed)
    (hiters : iters ≤ 8) : encInfoGood t := by
  unfold encInfoGood
  rw [h, encInfoWord_iters, encInfoWord_valid]
  exact ⟨encInfoWord_reserved _ _ _, by omega, by simp⟩

/-- Every command keeps the invariant. -/
theorem Inv.of_exec {i : Instr} {s t : State} (h : Inv s) (hexec : exec i s = .next t) : Inv t := by
  have hkeep := commandsKeepOperands i s t hexec
  cases exec_ends hexec with
  | noWrite => exact h.finish _
  | result v =>
    obtain ⟨-, hdone, -⟩ := finishResult_spec s v
    exact h.completed hdone hkeep h.encInfo h.mem h.scratch
  | block slot b =>
    obtain ⟨-, hdone, -⟩ := finishBlock_spec s slot b
    exact h.completed hdone hkeep (by simpa [encInfoGood] using h.encInfo) (by simpa [memGood] using h.mem)
      (by simpa using h.scratch)
  | encode ch slot samples hi hb he hload =>
    obtain ⟨-, hinfo, hsc, hdone, -⟩ := finishEncode_spec s ch slot (s.encodeScratch ch samples)
    obtain ⟨-, hsteps, -⟩ := h.scratch
    have hgood : scratchGood (s.encodeScratch ch samples) := scratchGood_encodeStages (loadValues_length hload) hsteps
    have hiter : (s.encodeScratch ch samples).iter ≤ 8 := by
      obtain ⟨-, -, -, -, -, hle⟩ := hgood
      exact hle
    exact h.completed hdone hkeep (encInfoGood_encInfoWord hinfo hiter) (by simpa [memGood] using h.mem) (by rwa [hsc])
  | out pal hlen hi he hfits =>
    obtain ⟨-, hdone, -⟩ := outWriteAll_complete_spec s s.outIndex pal
    obtain ⟨hwf, hmem⟩ := h.mem
    refine h.completed hdone hkeep (by simpa [encInfoGood] using h.encInfo)
      ⟨State.outWriteAll_wf _ _ _ hwf, fun c hc => ?_⟩ (by simpa using h.scratch)
    rw [hkeep.params]
    rcases State.mem_outWriteAll _ _ _ hc with ⟨hlow, hhigh⟩ | hold
    · exact memOffset_out (by rw [hlen]; exact hfits) hlow hhigh
    · exact hmem c hold

theorem Inv.of_coreStep {s t : State} (h : Inv s) (hstep : coreStep s = .next t) : Inv t := by
  rcases coreStep_cases hstep with ⟨-, rfl⟩ | ⟨w, a, i, -, -, hexec⟩ | ⟨w, a, e, -, -, rfl⟩
  · exact h
  · exact h.of_exec hexec
  · exact h.finish .illegalCommand

theorem Inv.of_act {a : HostAction} {s t : State} (h : Inv s) (hact : act a s = .next t) : Inv t := by
  cases a with
  | read width addr =>
    rcases hostRead_cases hact with ⟨-, rfl⟩ | ⟨-, -, rfl⟩
    · exact h
    · exact h.busRead _ _
  | write width addr v =>
    rcases hostWrite_cases hact with ⟨-, rfl⟩ | ⟨-, -, rfl⟩
    · exact h
    · exact h.busWrite v _
  | complete => exact h.of_coreStep hact
  | reset => cases hact; exact h.resetEvent

/-- Settles O60: the core's step keeps the invariant, and so does each action, which first leaves the script. -/
theorem stepKeepsInvariant : Obligations.StepKeepsInvariant := by
  intro s t h hstep
  rcases step_cases hstep with ⟨-, hcore⟩ | ⟨a, rest, -, hact⟩
  · exact h.of_coreStep hcore
  · exact (h.setEnvironment s.epoch s.draws rest s.readLog).of_act hact

end Sys2Proof.Machine
end

section
/-! PROOFS. The two undefined cases (60_exceptions.md R228). A command faults exactly where an ENCODE with a source buffer
gathers out of bounds (`exec_undefined`, `exec_defined`), an access of the window exactly where it is not an aligned 32-bit
one (`accessOutcome_eq_fault_iff`), and nothing refuses. -/

namespace Sys2Proof.Machine

/-! ### The gather of an ENCODE -/

theorem srcAddrOk_iff (s : State) (a : Int) : srcAddrOk s a = true ↔
    0 ≤ a ∧ a < (s.operands.srcLen.toNat : Int) ∧ (s.operands.srcBase.toNat : Int) + a < (s.params.srcWords : Int) := by
  simp [srcAddrOk, and_assoc]

/-- The address of row `y` and column `x` stands at `4y + x` of the list (42_encoder.md R162). -/
theorem gatherInBounds_iff (s : State) : gatherInBounds s ↔ ∀ a ∈ s.gatherList, srcAddrOk s a = true := by
  simp only [gatherInBounds, srcAddrOk_iff, State.gatherList, gatherAddrs, List.forall_mem_map, List.mem_range]
  constructor
  · intro h i hi
    exact h (i / 4) (by omega) (i % 4) (by omega)
  · intro h y hy x hx
    have hentry := h (4 * y + x) (by omega)
    rwa [show (4 * y + x) / 4 = y by omega, show (4 * y + x) % 4 = x by omega] at hentry

theorem loadValues_of_inBounds {s : State} (h : gatherInBounds s) : loadValues s = some (s.gatherList.map (sampleAt s)) :=
  if_pos (List.all_eq_true.2 ((gatherInBounds_iff s).1 h))

theorem loadValues_of_not_inBounds {s : State} (h : ¬ gatherInBounds s) : loadValues s = none :=
  if_neg fun hall => h ((gatherInBounds_iff s).2 (List.all_eq_true.1 hall))

/-! ### Commands -/

/-- The gather of an ENCODE, and of no other command, can be undefined (42_encoder.md R162). -/
def gatherUndefined (i : Instr) (s : State) : Prop :=
  isEncode i = true ∧ srcValid s.operands.bufcfg = true ∧ ¬ gatherInBounds s

theorem exec_of_isEncode {i : Instr} (hi : isEncode i = true) (s : State) :
    ∃ ch slot, exec i s = encodeChannel ch slot s := by
  cases i with
  | encodeU slot => exact ⟨.unsigned, slot, rfl⟩
  | encodeS slot => exact ⟨.signed, slot, rfl⟩
  | _ => cases hi

theorem exec_undefined {i : Instr} {s : State} (h : gatherUndefined i s) : exec i s = .fault .undefinedSrcBounds := by
  obtain ⟨hi, hvalid, hout⟩ := h
  obtain ⟨ch, slot, hexec⟩ := exec_of_isEncode hi s
  rw [hexec, encodeChannel, if_pos hvalid, loadValues_of_not_inBounds hout]

theorem exec_defined {i : Instr} {s : State} (h : ¬ gatherUndefined i s) : ∃ t, exec i s = .next t := by
  cases hi : isEncode i with
  | false =>
    obtain ⟨t, hexec, -⟩ := exec_setScratch hi s s.sc
    exact ⟨t, hexec⟩
  | true =>
    obtain ⟨ch, slot, hexec⟩ := exec_of_isEncode hi s
    rw [hexec, encodeChannel]
    cases hvalid : srcValid s.operands.bufcfg with
    | false => exact ⟨_, rfl⟩
    | true =>
      have hin : gatherInBounds s := by
        by_contra hout
        exact h ⟨hi, hvalid, hout⟩
      rw [loadValues_of_inBounds hin]
      exact ⟨_, rfl⟩

/-- The one fault of a command (60_exceptions.md R228). -/
theorem exec_eq_fault_iff {i : Instr} {s : State} {f : Fault} :
    exec i s = .fault f ↔ f = .undefinedSrcBounds ∧ gatherUndefined i s := by
  by_cases h : gatherUndefined i s
  · simp [exec_undefined h, h, eq_comm]
  · obtain ⟨t, hexec⟩ := exec_defined h
    simp [hexec, h]

theorem exec_ne_refused (i : Instr) (s : State) (r : Refusal) : exec i s ≠ .refused r := by
  by_cases h : gatherUndefined i s
  · simp [exec_undefined h]
  · obtain ⟨t, hexec⟩ := exec_defined h
    simp [hexec]

/-! ### Accesses of the window -/

/-- What an access answers that would leave `t`: the checks a host read and a host write share (20_memory.md R57, R58). -/
def State.accessOutcome (s : State) (width : BusWidth) (addr : Nat) (t : State) : Host.Outcome State Fault Refusal :=
  if touchesWindow s.params width addr then
    if accessDefined s.params width addr then .next t else .fault .undefinedBusAccess
  else .next s

theorem hostRead_eq_accessOutcome (s : State) (width : BusWidth) (addr : Nat) : s.hostRead width addr =
    s.accessOutcome width addr (s.busRead addr (busTarget s.params (addr - s.params.coreBase))) := rfl

theorem hostWrite_eq_accessOutcome (s : State) (width : BusWidth) (addr : Nat) (v : Word) : s.hostWrite width addr v =
    s.accessOutcome width addr (s.busWrite v (busTarget s.params (addr - s.params.coreBase))) := rfl

/-- The one fault of an access (20_memory.md R57), BUSY or not. -/
theorem accessOutcome_eq_fault_iff {s t : State} {width : BusWidth} {addr : Nat} {f : Fault} :
    s.accessOutcome width addr t = .fault f ↔
      f = .undefinedBusAccess ∧ touchesWindow s.params width addr = true ∧ accessDefined s.params width addr = false := by
  unfold State.accessOutcome
  split
  · next htouches =>
    split
    · next hdefined => simp [hdefined]
    · next hundefined => simp [htouches, hundefined, eq_comm]
  · next houtside => simp [houtside]

theorem accessOutcome_ne_refused (s t : State) (width : BusWidth) (addr : Nat) (r : Refusal) :
    s.accessOutcome width addr t ≠ .refused r := by
  unfold State.accessOutcome
  split
  · split <;> simp
  · simp

theorem BusWidth.bytes_pos (width : BusWidth) : 0 < width.bytes := by cases width <;> decide

/-- An access that starts in the window covers a byte of it, whatever its width (20_memory.md R50). -/
theorem touchesWindow_of_mem {p : Params} (width : BusWidth) {addr : Nat} (hlow : p.coreBase ≤ addr)
    (hhigh : addr < p.coreBase + 0x3000) : touchesWindow p width addr = true := by
  have := width.bytes_pos
  simp only [touchesWindow, Bool.and_eq_true, decide_eq_true_eq]
  omega

theorem accessDefined_eq_false_iff {p : Params} {width : BusWidth} {addr : Nat} (hlow : p.coreBase ≤ addr) :
    accessDefined p width addr = false ↔ width ≠ .w32 ∨ (addr - p.coreBase) % 4 ≠ 0 := by
  simp [accessDefined, hlow, imp_iff_not_or]

/-! ### Steps -/

theorem coreStep_ne_refused (s : State) (r : Refusal) : coreStep s ≠ .refused r := by
  cases hseq : s.seq with
  | idle => simp [coreStep_idle hseq]
  | busy w a =>
    cases hdecode : decode w with
    | ok i => rw [coreStep_busy hseq hdecode]; exact exec_ne_refused i s r
    | error e => simp [coreStep, hseq, hdecode]

theorem act_ne_refused (a : HostAction) (s : State) (r : Refusal) : act a s ≠ .refused r := by
  cases a with
  | read width addr => exact accessOutcome_ne_refused s _ width addr r
  | write width addr v => exact accessOutcome_ne_refused s _ width addr r
  | complete => exact coreStep_ne_refused s r
  | reset => simp [act]

theorem step_ne_refused (s : State) (r : Refusal) : step s ≠ .refused r := by
  cases hscript : s.script with
  | nil => rw [step_nil hscript]; exact coreStep_ne_refused s r
  | cons a rest => rw [step_cons hscript]; exact act_ne_refused a _ r

/-- Settles O12 (42_encoder.md R162; 20_memory.md R57; 60_exceptions.md R228). -/
theorem faultsExactlyWhenUndefined : Obligations.FaultsExactlyWhenUndefined := by
  refine ⟨fun i s => ?_, fun i s h => ?_, fun s width addr v hlow hhigh => ?_, step_ne_refused⟩
  · rw [exec_eq_fault_iff, eq_self, true_and]
    rfl
  · obtain ⟨hfault, -⟩ := exec_eq_fault_iff.1 h
    cases hfault
  · rw [← accessDefined_eq_false_iff hlow, hostRead_eq_accessOutcome, hostWrite_eq_accessOutcome]
    simp [accessOutcome_eq_fault_iff, touchesWindow_of_mem width hlow hhigh]

end Sys2Proof.Machine
end

section
/-! PROOFS. A word of SRC or OUT written by the host (20_memory.md R52 to R54): what the state after it reads, for any
state that has the write in its memory, and the step that makes it. -/

namespace Sys2Proof.Machine

/-! ### What a state reads where a word was written -/

theorem readByte_of_writeWord {s t : State} {o : Nat} {v : Word} (hmem : t.mem = s.mem.writeWord o v) {k : Nat}
    (hk : k < 4) : t.readByte (o + k) = byteOf v k := by
  unfold State.readByte
  rw [hmem, Memory.readByte?_writeWord]
  obtain rfl | rfl | rfl | rfl : k = 0 ∨ k = 1 ∨ k = 2 ∨ k = 3 := by omega
  all_goals simp

theorem readWord_of_writeWord {s t : State} {o : Nat} {v : Word} (hmem : t.mem = s.mem.writeWord o v) :
    t.readWord o = v := by
  have hbyte0 : t.readByte o = byteOf v 0 := readByte_of_writeWord (k := 0) hmem (by omega)
  rw [State.readWord, hbyte0, readByte_of_writeWord hmem (by omega), readByte_of_writeWord hmem (by omega),
    readByte_of_writeWord hmem (by omega), wordOfBytes_byteOf]

theorem keepsMemoryOutside_of_writeWord {s t : State} {o : Nat} {v : Word} (hmem : t.mem = s.mem.writeWord o v)
    (hepoch : t.epoch = s.epoch) : KeepsMemoryOutside o 4 s t := by
  intro a ha
  unfold State.readByte
  rw [hmem, hepoch, Memory.readByte?_writeWord_outside _ _ _ _ ha]

/-! ### The step -/

/-- With no command in execution, a host write to a word of SRC or OUT is the memory's own write, and no more. -/
theorem step_write_memory {s : State} {o : Nat} {v : Word} {rest : List HostAction} (hp : s.params.wf = true)
    (hidle : statusBusy s.status = false)
    (ho : (∃ j < s.params.srcWords, o = srcOffset j) ∨ (∃ j < s.params.outWords, o = outOffset j))
    (h : s.script = .write .w32 (s.params.coreBase + o) v :: rest) :
    step s = .next { s with mem := s.mem.writeWord o v, script := rest } := by
  obtain ⟨⟨⟨-, hsrc⟩, -⟩, hout⟩ : ((_ ∧ s.params.srcWords ≤ 1024) ∧ _) ∧ s.params.outWords ≤ 1024 := by
    simpa only [Params.wf, Bool.and_eq_true, decide_eq_true_eq] using hp
  obtain ⟨j, hj, rfl⟩ | ⟨j, hj, rfl⟩ := ho
  · exact step_write_idle h (by unfold srcOffset; omega) (by unfold srcOffset; omega) (busTarget_srcOffset hp hj) hidle
  · exact step_write_idle h (by unfold outOffset; omega) (by unfold outOffset; omega) (busTarget_outOffset hj) hidle

/-- Settles O10 (20_memory.md R52, R53, R54). -/
theorem memoryWritesWhenIdle : Obligations.MemoryWritesWhenIdle := by
  intro s o v rest hp hidle ho h
  exact ⟨_, step_write_memory hp hidle ho h, readWord_of_writeWord rfl, fun k hk => readByte_of_writeWord rfl hk,
    keepsMemoryOutside_of_writeWord rfl rfl, fun hwf => Memory.wf_writeWord hwf o v, rfl⟩

end Sys2Proof.Machine
end

section
/-! PROOFS. The bytes of a block and of a BC5 block (20_memory.md R55, 40_block_format.md R117). -/

namespace Sys2Proof.Machine

theorem blockBytes_length (b : Block) : (blockBytes b).length = 8 := by simp [blockBytes]

theorem blockBytes_getD (b : Block) {k : Nat} (hk : k < 8) : (blockBytes b).getD k 0 = b.extractLsb' (8 * k) 8 := by
  simp [blockBytes, hk]

theorem bc5Bytes_getD_low (s : State) {k : Nat} (hk : k < 8) : s.bc5Bytes.getD k 0 = s.block0.extractLsb' (8 * k) 8 := by
  rw [State.bc5Bytes, List.getD_append _ _ _ _ (by rwa [blockBytes_length]), blockBytes_getD _ hk]

theorem bc5Bytes_getD_high (s : State) {k : Nat} (hk : k < 8) :
    s.bc5Bytes.getD (8 + k) 0 = s.block1.extractLsb' (8 * k) 8 := by
  rw [State.bc5Bytes, List.getD_append_right _ _ _ _ (by rw [blockBytes_length]; omega), blockBytes_length,
    Nat.add_sub_cancel_left, blockBytes_getD _ hk]

/-- Byte `k` of the BC5 block is bits 8k+7:8k of `{BLOCK[1], BLOCK[0]}` (40_block_format.md R117). -/
theorem bc5Bytes_getD (s : State) {k : Nat} (hk : k < 16) : s.bc5Bytes.getD k 0 = s.bc5.extractLsb' (8 * k) 8 := by
  rcases Nat.lt_or_ge k 8 with hlow | hhigh
  · rw [bc5Bytes_getD_low s hlow, State.bc5, BitVec.extractLsb'_append_eq_of_add_le (by omega)]
  · obtain ⟨j, rfl⟩ := Nat.exists_eq_add_of_le hhigh
    rw [bc5Bytes_getD_high s (by omega), State.bc5, BitVec.extractLsb'_append_eq_of_le (by omega),
      show 8 * (8 + j) - 64 = 8 * j by omega]

/-- A byte of a 32-bit half of a block is a byte of the block. -/
theorem byteOf_extractLsb' (b : Block) (start : Nat) {k : Nat} (hk : k < 4) :
    byteOf (b.extractLsb' start 32) k = b.extractLsb' (start + 8 * k) 8 := by
  apply BitVec.eq_of_getLsbD_eq
  intro i hi
  have hbit : 8 * k + i < 32 := by omega
  simp [byteOf, hi, hbit, Nat.add_assoc]

/-- The index bits from 16 on are the bits of the bytes from 2 on, least significant first (20_memory.md R55). -/
theorem getLsbD_blockBytes (b : Block) {i : Nat} (hi : i < 48) :
    b.getLsbD (16 + i) = ((blockBytes b).getD (2 + i / 8) 0).getLsbD (i % 8) := by
  rw [blockBytes_getD b (by omega), BitVec.getLsbD_extractLsb', decide_eq_true (Nat.mod_lt i (by omega)), Bool.true_and,
    show 8 * (2 + i / 8) + i % 8 = 16 + i by omega]

/-- Settles O24 (20_memory.md R55, 40_block_format.md R117). -/
theorem blockBytesLittleEndian : Obligations.BlockBytesLittleEndian := by
  intro s
  refine ⟨by rw [State.bc5Bytes, List.length_append, blockBytes_length, blockBytes_length], fun k => bc5Bytes_getD_low s,
    fun k => bc5Bytes_getD_high s, fun k => bc5Bytes_getD s,
    fun slot => ⟨blockBytes_getD _ (by omega), blockBytes_getD _ (by omega), fun i => getLsbD_blockBytes _⟩,
    fun k hk => ⟨?_, ?_, ?_, ?_⟩⟩
  · rw [bc5Bytes_getD_low s (by omega), State.regRead, byteOf_extractLsb' _ _ hk, Nat.zero_add]
  · rw [bc5Bytes_getD_low s (by omega), State.regRead, byteOf_extractLsb' _ _ hk, Nat.mul_add]
  · rw [bc5Bytes_getD_high s (by omega), State.regRead, byteOf_extractLsb' _ _ hk, Nat.zero_add]
  · rw [show 12 + k = 8 + (4 + k) by omega, bc5Bytes_getD_high s (by omega), State.regRead, byteOf_extractLsb' _ _ hk,
      Nat.mul_add]

end Sys2Proof.Machine
end

section
/-! PROOFS. The encoding (30_encoding.md R71, R72, R74, R77, R79).

The idea. A word is its six fields, and decoding looks at nothing else; so the decoder and the encoder need be compared on
the fields of commands only. A word that matches a row is the word of that row's command with the word's own SLOT and EP
bits for operands, so whatever matches a row decodes, and to that row. -/

namespace Sys2Proof

open Machine

/-! ### Operand bits -/

@[simp] theorem slotOf_bit (slot : Slot) : slotOf slot.bit = slot := by cases slot <;> rfl
@[simp] theorem epOf_bit (ep : Ep) : epOf ep.bit = ep := by cases ep <;> rfl
@[simp] theorem bit_slotOf (b : Bool) : (slotOf b).bit = b := by cases b <;> rfl
@[simp] theorem bit_epOf (b : Bool) : (epOf b).bit = b := by cases b <;> rfl

/-! ### A word and its fields -/

/-- No bit of a word lies outside its fields (30_encoding.md R71). -/
theorem fieldsOf_injective : Function.Injective fieldsOf := by
  intro v w h
  simp only [fieldsOf, CmdFields.mk.injEq] at h
  obtain ⟨hop, hs, hf, hslot, hep, hres⟩ := h
  apply BitVec.eq_of_getLsbD_eq
  intro k hk
  rcases Nat.lt_or_ge k 4 with hlow | hlow
  · simpa [hlow] using congrArg (·.getLsbD k) hop
  rcases Nat.lt_or_ge k 8 with hmid | hhigh
  · have hmodifier : k = 4 ∨ k = 5 ∨ k = 6 ∨ k = 7 := by omega
    rcases hmodifier with rfl | rfl | rfl | rfl <;> assumption
  · have hbit : k - 8 < 24 := by omega
    simpa [hbit, Nat.add_sub_cancel' hhigh] using congrArg (·.getLsbD (k - 8)) hres

/-- Every command's word matches its row and has its fields (the lemmas of `Laws.RowWord`, together). -/
theorem rowWord (i : Instr) : Laws.RowWord.Statement i := by
  cases i with
  | nop => exact Laws.RowWord.nop
  | encodeU slot => exact Laws.RowWord.encodeU slot
  | encodeS slot => exact Laws.RowWord.encodeS slot
  | getEpU slot ep => exact Laws.RowWord.getEpU slot ep
  | getEpS slot ep => exact Laws.RowWord.getEpS slot ep
  | setEpU slot ep => exact Laws.RowWord.setEpU slot ep
  | setEpS slot ep => exact Laws.RowWord.setEpS slot ep
  | getIdx slot => exact Laws.RowWord.getIdx slot
  | setIdx slot => exact Laws.RowWord.setIdx slot
  | getIdxXY slot => exact Laws.RowWord.getIdxXY slot
  | setIdxXY slot => exact Laws.RowWord.setIdxXY slot
  | getRUI slot => exact Laws.RowWord.getRUI slot
  | getRUF slot => exact Laws.RowWord.getRUF slot
  | getRSI slot => exact Laws.RowWord.getRSI slot
  | getRSF slot => exact Laws.RowWord.getRSF slot
  | getRValuesUI slot => exact Laws.RowWord.getRValuesUI slot
  | getRValuesUF slot => exact Laws.RowWord.getRValuesUF slot
  | getRValuesSI slot => exact Laws.RowWord.getRValuesSI slot
  | getRValuesSF slot => exact Laws.RowWord.getRValuesSF slot

theorem encode_and_rowMask (i : Instr) : encode i &&& rowMask i = rowMatch i := (rowWord i).1

@[simp] theorem fieldsOf_encode (i : Instr) : fieldsOf (encode i) = i.fields := (rowWord i).2

/-! ### Decoding and the fields of commands -/

/-- What `decodeOp` decodes has the fields it was given: no modifier is dropped. -/
theorem fields_of_decodeOp_eq_ok {n : Nat} {s f slot ep : Bool} {i : Instr} (h : decodeOp n s f slot ep = .ok i) :
    i.fields = ⟨BitVec.ofNat 4 n, s, f, slot, ep, 0⟩ := by
  unfold decodeOp at h
  split at h
  case h_20 => split at h <;> cases h
  all_goals cases h; simp [Instr.fields]

theorem fields_of_decode_eq_ok {w : Word} {i : Instr} (h : decode w = .ok i) : i.fields = fieldsOf w := by
  unfold decode at h
  split at h
  next hres => rw [fields_of_decodeOp_eq_ok h, ← hres, BitVec.ofNat_toNat, BitVec.setWidth_eq]
  next => cases h

theorem decode_of_fieldsOf_eq {w : Word} {i : Instr} (h : fieldsOf w = i.fields) : decode w = .ok i := by
  unfold decode
  rw [h]
  cases i <;> simp [Instr.fields, decodeOp]

theorem decode_eq_ok_iff_fields {w : Word} {i : Instr} : decode w = .ok i ↔ fieldsOf w = i.fields :=
  ⟨fun h => (fields_of_decode_eq_ok h).symm, decode_of_fieldsOf_eq⟩

theorem decode_eq_ok_iff {w : Word} {i : Instr} : decode w = .ok i ↔ w = encode i := by
  rw [decode_eq_ok_iff_fields, ← fieldsOf_encode, fieldsOf_injective.eq_iff]

/-! ### Legal words -/

/-- Commands are legal by the way they are built. -/
theorem Instr.wf_eq_true (i : Instr) : i.wf = true := by cases i <;> rfl

theorem modifiersLegal_iff (c : CmdFields) : c.modifiersLegal = true ↔
    (c.usesS = false → c.s = false) ∧ (c.usesF = false → c.f = false) ∧
      (c.usesSlot = false → c.slot = false) ∧ (c.usesEp = false → c.ep = false) := by
  simp [CmdFields.modifiersLegal, and_assoc, or_iff_not_imp_left]

/-- The opcode map of 30_encoding.md R74 read from the left: an assigned operation whose unused modifiers are 0 is a
command. -/
theorem exists_decodeOp_eq_ok {n : Nat} {s f slot ep : Bool} {res : BitVec 24} (hn : n < 10)
    (hmod : CmdFields.modifiersLegal ⟨BitVec.ofNat 4 n, s, f, slot, ep, res⟩ = true) :
    ∃ i, decodeOp n s f slot ep = .ok i := by
  obtain ⟨hs, hf, hslot, hep⟩ := (modifiersLegal_iff _).mp hmod
  have hop : n = 0 ∨ n = 1 ∨ (n = 2 ∨ n = 3) ∨ (n = 4 ∨ n = 5 ∨ n = 6 ∨ n = 7) ∨ (n = 8 ∨ n = 9) := by omega
  rcases hop with rfl | rfl | hop | hop | hop
  · obtain ⟨rfl, rfl, rfl, rfl⟩ : s = false ∧ f = false ∧ slot = false ∧ ep = false := ⟨hs rfl, hf rfl, hslot rfl, hep rfl⟩
    exact ⟨_, rfl⟩
  · obtain ⟨rfl, rfl⟩ : f = false ∧ ep = false := ⟨hf rfl, hep rfl⟩
    cases s <;> exact ⟨_, rfl⟩
  · obtain rfl : f = false := by rcases hop with rfl | rfl <;> exact hf rfl
    rcases hop with rfl | rfl <;> cases s <;> exact ⟨_, rfl⟩
  · obtain ⟨rfl, rfl, rfl⟩ : s = false ∧ f = false ∧ ep = false := by
      rcases hop with rfl | rfl | rfl | rfl <;> exact ⟨hs rfl, hf rfl, hep rfl⟩
    rcases hop with rfl | rfl | rfl | rfl <;> exact ⟨_, rfl⟩
  · obtain rfl : ep = false := by rcases hop with rfl | rfl <;> exact hep rfl
    rcases hop with rfl | rfl <;> cases s <;> cases f <;> exact ⟨_, rfl⟩

theorem legal_iff_exists_decode (w : Word) : (fieldsOf w).legal = true ↔ ∃ i, decode w = .ok i := by
  constructor
  · intro h
    simp only [CmdFields.legal, CmdFields.opAssigned, Bool.and_eq_true, decide_eq_true_eq, beq_iff_eq] at h
    obtain ⟨⟨hop, hres⟩, hmod⟩ := h
    rw [decode, if_pos hres]
    exact exists_decodeOp_eq_ok (res := (fieldsOf w).res) hop (by rwa [BitVec.ofNat_toNat, BitVec.setWidth_eq])
  · rintro ⟨i, h⟩
    rw [decode_eq_ok_iff_fields.mp h]
    exact i.wf_eq_true

/-- Settles O1 (30_encoding.md R71, R72, R74, R77): the word and the command have the same fields. -/
theorem decodeEncodeInverse : Obligations.DecodeEncodeInverse := by
  intro w i
  simp only [decode_eq_ok_iff, i.wf_eq_true, true_and]

/-! ### Rows -/

/-- The command of the same row with other operands. -/
def Instr.withOperands (slot : Slot) (ep : Ep) : Instr → Instr
  | .nop => .nop
  | .encodeU _ => .encodeU slot
  | .encodeS _ => .encodeS slot
  | .getEpU _ _ => .getEpU slot ep
  | .getEpS _ _ => .getEpS slot ep
  | .setEpU _ _ => .setEpU slot ep
  | .setEpS _ _ => .setEpS slot ep
  | .getIdx _ => .getIdx slot
  | .setIdx _ => .setIdx slot
  | .getIdxXY _ => .getIdxXY slot
  | .setIdxXY _ => .setIdxXY slot
  | .getRUI _ => .getRUI slot
  | .getRUF _ => .getRUF slot
  | .getRSI _ => .getRSI slot
  | .getRSF _ => .getRSF slot
  | .getRValuesUI _ => .getRValuesUI slot
  | .getRValuesUF _ => .getRValuesUF slot
  | .getRValuesSI _ => .getRValuesSI slot
  | .getRValuesSF _ => .getRValuesSF slot

@[simp] theorem rowMask_withOperands (i : Instr) (slot : Slot) (ep : Ep) :
    rowMask (i.withOperands slot ep) = rowMask i := by cases i <;> rfl

@[simp] theorem rowMatch_withOperands (i : Instr) (slot : Slot) (ep : Ep) :
    rowMatch (i.withOperands slot ep) = rowMatch i := by cases i <;> rfl

/-- The word with these SLOT and EP bits and no others (30_encoding.md R71). -/
def operandBits (slot ep : Bool) : Word := assemble 0 false false slot ep

theorem getLsbD_operandBits {slot ep : Bool} {k : Nat} (hk : k < 32) :
    (operandBits slot ep).getLsbD k = (decide (k = 6) && slot || decide (k = 7) && ep) := by
  cases slot <;> cases ep <;> decide +revert

theorem getLsbD_operandMask {k : Nat} (hk : k < 32) : (0xC0 : Word).getLsbD k = (decide (k = 6) || decide (k = 7)) := by
  decide +revert

/-- The bits a row's mask leaves free are its operands' (30_encoding.md R74). -/
theorem encode_withOperands (i : Instr) (slot : Slot) (ep : Ep) : encode (i.withOperands slot ep) =
    rowMatch i ||| (operandBits slot.bit ep.bit &&& ~~~rowMask i) := by
  cases i <;> simp only [Instr.withOperands, encode, rowMatch, rowMask] <;> cases slot <;> cases ep <;> decide

/-- A row's mask leaves no bit free but SLOT and EP. -/
theorem operandMask_and_not_rowMask (i : Instr) : 0xC0 &&& ~~~rowMask i = ~~~rowMask i := by
  cases i <;> simp only [rowMask] <;> decide

theorem and_operandMask (w : Word) : w &&& 0xC0 = operandBits (w.getLsbD 6) (w.getLsbD 7) := by
  apply BitVec.eq_of_getLsbD_eq
  intro k hk
  rw [BitVec.getLsbD_and, getLsbD_operandMask hk, getLsbD_operandBits hk]
  by_cases h6 : k = 6
  · simp [h6]
  · by_cases h7 : k = 7 <;> simp [h6, h7]

theorem and_not_rowMask (w : Word) (i : Instr) :
    w &&& ~~~rowMask i = operandBits (w.getLsbD 6) (w.getLsbD 7) &&& ~~~rowMask i :=
  calc w &&& ~~~rowMask i = w &&& (0xC0 &&& ~~~rowMask i) := by rw [operandMask_and_not_rowMask]
    _ = operandBits (w.getLsbD 6) (w.getLsbD 7) &&& ~~~rowMask i := by rw [← BitVec.and_assoc, and_operandMask]

/-- A word that matches a row is the word of the row's command with the word's own operand bits. -/
theorem eq_encode_of_matches {w : Word} {j : Instr} (h : w &&& rowMask j = rowMatch j) :
    w = encode (j.withOperands (slotOf (w.getLsbD 6)) (epOf (w.getLsbD 7))) := by
  rw [encode_withOperands, bit_slotOf, bit_epOf, ← and_not_rowMask, ← h, ← BitVec.and_or_distrib_left, BitVec.or_not_self,
    BitVec.and_allOnes]

theorem decode_of_matches {w : Word} {j : Instr} (h : w &&& rowMask j = rowMatch j) :
    ∃ i, decode w = .ok i ∧ rowMatch j = rowMatch i ∧ rowMask j = rowMask i :=
  ⟨_, decode_eq_ok_iff.mpr (eq_encode_of_matches h), (rowMatch_withOperands ..).symm, (rowMask_withOperands ..).symm⟩

theorem decode_of_illegal {w : Word} (h : (fieldsOf w).legal = false) : ∃ e, decode w = .error e := by
  cases hdecode : decode w with
  | error e => exact ⟨e, rfl⟩
  | ok i => exact absurd ((legal_iff_exists_decode w).mpr ⟨i, hdecode⟩) (by simp [h])

/-- An illegal word ends in ILLEGAL_COMMAND (30_encoding.md R72). -/
theorem coreStep_illegal {s : State} {w : Word} {a : Args} (hseq : s.seq = .busy w a) (h : (fieldsOf w).legal = false) :
    coreStep s = .next (s.raiseError .illegalCommand) := by
  obtain ⟨e, he⟩ := decode_of_illegal h
  simp [coreStep, hseq, he]

/-- Settles O2 (30_encoding.md R72). -/
theorem legalWordsAndIllegalWords : Obligations.LegalWordsAndIllegalWords := by
  refine ⟨legal_iff_exists_decode, fun w i hi => ⟨?_, fun j hj => ?_⟩, fun w hw j hj => ?_, fun s w a hseq hw => ?_⟩
  · rw [decode_eq_ok_iff.mp hi, encode_and_rowMask]
  · obtain ⟨i', hi', hrow⟩ := decode_of_matches hj
    obtain rfl : i' = i := Except.ok.inj (hi'.symm.trans hi)
    exact hrow
  · obtain ⟨i, hi, -⟩ := decode_of_matches hj
    obtain ⟨e, he⟩ := decode_of_illegal hw
    exact absurd (hi.symm.trans he) (by simp)
  · exact ⟨_, coreStep_illegal hseq hw, raiseError_completed s _, raiseError_keeps s _⟩

/-- Settles O3 (30_encoding.md R79): closed facts, one for each word of the table. -/
theorem tableWordsDecode : Obligations.TableWordsDecode := by
  unfold Obligations.TableWordsDecode
  decide

end Sys2Proof
end

section
/-! PROOFS. The block accessors (40_block_format.md R109 to R116). A SET replaces one field of its block and a GET puts one in
RESULT; a field has one rule for the bits inside it and one for the bits outside, and the accessors differ in where the
field stands and in the range check before it. -/

namespace Sys2Proof.Machine

/-! ### A field of a block -/

theorem getLsbD_setField (b : Block) (sh width v : Nat) {n : Nat} (hn : n < 64) :
    (setField b sh width v).getLsbD n =
      if sh ≤ n ∧ n < sh + width then v.testBit (n - sh) else b.getLsbD n := by
  simp only [setField, BitVec.getLsbD_or, BitVec.getLsbD_and, BitVec.getLsbD_not, BitVec.getLsbD_ofNat, hn, decide_true,
    Bool.true_and, Nat.testBit_mul_two_pow, Nat.testBit_two_pow_sub_one, Nat.testBit_mod_two_pow]
  by_cases hlow : sh ≤ n
  · have hhigh : n - sh < width ↔ n < sh + width := by omega
    by_cases hin : n < sh + width <;> simp [hlow, hhigh, hin]
  · simp [hlow]

/-- The field reads as what was written. -/
theorem extractLsb'_setField (b : Block) {sh width : Nat} (v : Nat) (h : sh + width ≤ 64) :
    (setField b sh width v).extractLsb' sh width = BitVec.ofNat width v := by
  apply BitVec.eq_of_getLsbD_eq
  intro k hk
  rw [BitVec.getLsbD_extractLsb', getLsbD_setField _ _ _ _ (by omega), if_pos (by omega), BitVec.getLsbD_ofNat,
    Nat.add_sub_cancel_left]

/-- Every bit outside the field is as it was. -/
theorem getLsbD_setField_outside (b : Block) {sh width : Nat} (v : Nat) {n : Nat} (h : n < sh ∨ sh + width ≤ n) :
    (setField b sh width v).getLsbD n = b.getLsbD n := by
  rcases Nat.lt_or_ge n 64 with hn | hn
  · rw [getLsbD_setField _ _ _ _ hn, if_neg (by omega)]
  · rw [BitVec.getLsbD_of_ge _ _ hn, BitVec.getLsbD_of_ge _ _ hn]

/-- A completion that replaced a field of its block. -/
theorem finishBlock_setField_spec {s t : State} {slot : Slot} {sh width v : Nat}
    (ht : t = s.finishBlock slot (setField (s.block slot) sh width v)) (h : sh + width ≤ 64) :
    (t.block slot).extractLsb' sh width = BitVec.ofNat width v ∧
      (∀ n, n < sh ∨ sh + width ≤ n → (t.block slot).getLsbD n = (s.block slot).getLsbD n) ∧
      CompletedWith .none s t ∧ KeepsAllButBlock slot s t := by
  obtain ⟨hblock, hcompleted, hkeeps⟩ := finishBlock_spec s slot (setField (s.block slot) sh width v)
  rw [ht, hblock]
  exact ⟨extractLsb'_setField _ _ h, fun n => getLsbD_setField_outside _ _, hcompleted, hkeeps⟩

/-! ### Endpoint values -/

theorem epShift_eq (ep : Ep) : epShift ep = 8 * ep.bit.toNat := by cases ep <;> rfl

theorem epShift_le (ep : Ep) : epShift ep + 8 ≤ 64 := by cases ep <;> decide

/-- The byte of an endpoint value is its two's-complement byte (40_block_format.md R105). -/
theorem ofNat_epByte (v : Int) : BitVec.ofNat 8 (epByte v) = BitVec.ofInt 8 v := by
  apply BitVec.eq_of_toNat_eq
  rw [BitVec.toNat_ofNat, BitVec.toNat_ofInt, epByte]
  omega

theorem epStored_signed (v : Int) : epStored v .signed = if v = -128 then -127 else v := rfl

theorem epStored_signed_range {v : Int} (hlo : -128 ≤ v) (hhi : v ≤ 127) :
    -127 ≤ epStored v .signed ∧ epStored v .signed ≤ 127 := by
  rw [epStored_signed]
  split <;> omega

/-- A signed endpoint reads as the value that would be stored for it: -128 as -127 (40_block_format.md R104, R105). -/
theorem epValue_signed (b : Block) (ep : Ep) : epValue b ep .signed = epStored (epRaw b ep).toInt .signed := rfl

theorem epValue_signed_range (b : Block) (ep : Ep) : -127 ≤ epValue b ep .signed ∧ epValue b ep .signed ≤ 127 := by
  rw [epValue_signed]
  exact epStored_signed_range (BitVec.le_toInt _) (Int.le_of_lt_add_one BitVec.toInt_lt)

/-! ### Range checks -/

theorem inRange_iff {v lo hi : Int} : inRange v lo hi = true ↔ lo ≤ v ∧ v ≤ hi := by simp [inRange]

theorem indexOk_iff {i : Int} : indexOk i = true ↔ 0 ≤ i ∧ i ≤ 15 := inRange_iff

theorem coordOk_iff {x : Int} : coordOk x = true ↔ 0 ≤ x ∧ x ≤ 3 := inRange_iff

theorem slotOk_iff {v : Int} : slotOk v = true ↔ 0 ≤ v ∧ v ≤ 7 := inRange_iff

theorem epWriteOk_unsigned_iff {v : Int} : epWriteOk v .unsigned = true ↔ 0 ≤ v ∧ v ≤ 255 := inRange_iff

theorem epWriteOk_signed_iff {v : Int} : epWriteOk v .signed = true ↔ -128 ≤ v ∧ v ≤ 127 := inRange_iff

theorem coordIndex_eq {x y : Int} (hx : 0 ≤ x) (hy : 0 ≤ y) : coordIndex x y = 4 * y.toNat + x.toNat := by
  unfold coordIndex
  omega

/-- A command that raises an error completes with it and changes nothing else (60_exceptions.md R222). -/
theorem exists_of_exec_raiseError {i : Instr} {s : State} {c : ErrCode} (h : exec i s = .next (s.raiseError c)) :
    ∃ t, exec i s = .next t ∧ CompletedWith c s t ∧ KeepsAll s t :=
  ⟨_, h, raiseError_completed s c, raiseError_keeps s c⟩

/-! ### What the accessors share -/

theorem getEndpoint_completes (ch : Channel) (slot : Slot) (ep : Ep) (s : State) :
    CompletedWith .none s (getEndpoint ch slot ep s) ∧ KeepsAllButResult s (getEndpoint ch slot ep s) :=
  (finishResult_spec s _).2

theorem getEndpoint_unsigned_toNat (slot : Slot) (ep : Ep) (s : State) :
    (getEndpoint .unsigned slot ep s).result.toNat = (epRaw (s.block slot) ep).toNat := by
  rw [getEndpoint, State.finishResult_result, epValue, BitVec.ofInt_natCast, BitVec.toNat_ofNat]
  omega

theorem getEndpoint_signed_toInt (slot : Slot) (ep : Ep) (s : State) :
    (getEndpoint .signed slot ep s).result.toInt = epValue (s.block slot) ep .signed := by
  obtain ⟨hlo, hhi⟩ := epValue_signed_range (s.block slot) ep
  exact BitVec.toInt_ofInt_eq_self (by decide) (by omega) (by omega)

theorem setEndpoint_of_not_ok {ch : Channel} {slot : Slot} {ep : Ep} {s : State} (h : ¬ epWriteOk s.argInt3 ch = true) :
    setEndpoint ch slot ep s = s.raiseError .outOfRange := if_neg h

/-- SET_EP with a value in range stores its two's-complement byte and keeps every other bit. -/
theorem setEndpoint_spec {ch : Channel} (slot : Slot) (ep : Ep) {s : State} (h : epWriteOk s.argInt3 ch = true) :
    ((setEndpoint ch slot ep s).block slot).extractLsb' (8 * ep.bit.toNat) 8 = BitVec.ofInt 8 (epStored s.argInt3 ch) ∧
      (∀ n, n < 8 * ep.bit.toNat ∨ 8 * ep.bit.toNat + 8 ≤ n →
        ((setEndpoint ch slot ep s).block slot).getLsbD n = (s.block slot).getLsbD n) ∧
      CompletedWith .none s (setEndpoint ch slot ep s) ∧ KeepsAllButBlock slot s (setEndpoint ch slot ep s) := by
  rw [← ofNat_epByte, ← epShift_eq]
  exact finishBlock_setField_spec (if_pos h) (epShift_le ep)

theorem getIndex_spec (slot : Slot) (i : Nat) (s : State) :
    (getIndex slot i s).result.toNat = (s.block slot).toNat / 2 ^ (16 + 3 * i) % 8 ∧
      CompletedWith .none s (getIndex slot i s) ∧ KeepsAllButResult s (getIndex slot i s) := by
  obtain ⟨hresult, hcompleted, hkeeps⟩ := finishResult_spec s ((idxGet (s.block slot) i).setWidth 32)
  refine ⟨?_, hcompleted, hkeeps⟩
  rw [getIndex, hresult, BitVec.toNat_setWidth_of_le (by decide), idxGet, BitVec.extractLsb'_toNat,
    Nat.shiftRight_eq_div_pow]
  rfl

/-- SET_IDX and SET_IDX_XY with operands in range store the index and keep every other bit. -/
theorem setIndex_spec (slot : Slot) {i v : Nat} (s : State) (hi : i ≤ 15) (hv : v ≤ 7) :
    (((setIndex slot i v s).block slot).extractLsb' (16 + 3 * i) 3).toNat = v ∧
      (∀ n, n < 16 + 3 * i ∨ 16 + 3 * i + 3 ≤ n →
        ((setIndex slot i v s).block slot).getLsbD n = (s.block slot).getLsbD n) ∧
      CompletedWith .none s (setIndex slot i v s) ∧ KeepsAllButBlock slot s (setIndex slot i v s) := by
  have hplace : idxShift i + 3 ≤ 64 := by unfold idxShift; omega
  obtain ⟨hfield, hrest⟩ := finishBlock_setField_spec (t := setIndex slot i v s) rfl hplace
  have hvalue : (BitVec.ofNat 3 v).toNat = v := by rw [BitVec.toNat_ofNat]; omega
  exact ⟨(congrArg BitVec.toNat hfield).trans hvalue, hrest⟩

end Sys2Proof.Machine

/-! ### The obligations

In a namespace of their own: `getIndex` and `setIndex` are also operations of the model. -/

namespace Sys2Proof.Machine.BlockAccessors

/-- Settles O16 (40_block_format.md R109). -/
theorem getEpUnsigned : Obligations.GetEpUnsigned := by
  intro s slot ep
  have hends := getEndpoint_completes .unsigned slot ep s
  refine ⟨rfl, getEndpoint .unsigned slot ep s, rfl, ?_, hends⟩
  rw [getEndpoint_unsigned_toNat, epRaw, BitVec.extractLsb'_toNat, Nat.shiftRight_eq_div_pow, epShift_eq]

/-- Settles O17 (40_block_format.md R110). -/
theorem getEpSigned : Obligations.GetEpSigned := by
  intro s slot ep
  have hends := getEndpoint_completes .signed slot ep s
  obtain ⟨hlo, -⟩ := epValue_signed_range (s.block slot) ep
  refine ⟨rfl, getEndpoint .signed slot ep s, rfl, ?_, ?_, hends⟩
  · rw [getEndpoint_signed_toInt, epValue_signed, epStored_signed, epRaw, epShift_eq]
  · rw [getEndpoint_signed_toInt]
    omega

/-- Settles O18 (40_block_format.md R111). -/
theorem setEpUnsigned : Obligations.SetEpUnsigned := by
  intro s slot ep
  refine ⟨rfl, fun hlo hhi => ?_, fun hout => ?_⟩
  · obtain ⟨hbyte, hrest⟩ := setEndpoint_spec slot ep (epWriteOk_unsigned_iff.mpr ⟨hlo, hhi⟩)
    refine ⟨_, rfl, ?_, hrest⟩
    rw [hbyte, epStored, BitVec.toNat_ofInt]
    omega
  · have hnot : ¬ epWriteOk s.argInt3 .unsigned = true := by rw [epWriteOk_unsigned_iff]; omega
    exact exists_of_exec_raiseError (congrArg _ (setEndpoint_of_not_ok hnot))

/-- Settles O19 (40_block_format.md R112). -/
theorem setEpSigned : Obligations.SetEpSigned := by
  intro s slot ep
  refine ⟨rfl, fun hlo hhi => ?_, fun hout => ?_⟩
  · obtain ⟨hbyte, hrest⟩ := setEndpoint_spec slot ep (epWriteOk_signed_iff.mpr ⟨hlo, hhi⟩)
    obtain ⟨hstoredLo, hstoredHi⟩ := epStored_signed_range hlo hhi
    refine ⟨_, rfl, ?_, hrest⟩
    rw [hbyte, BitVec.toInt_ofInt_eq_self (by decide) (by omega) (by omega), epStored_signed]
  · have hnot : ¬ epWriteOk s.argInt3 .signed = true := by rw [epWriteOk_signed_iff]; omega
    exact exists_of_exec_raiseError (congrArg _ (setEndpoint_of_not_ok hnot))

/-- Settles O20 (40_block_format.md R113). -/
theorem getIndex : Obligations.GetIndex := by
  intro s slot
  refine ⟨rfl, fun hlo hhi => ?_, fun hout => ?_⟩
  · exact ⟨_, if_pos (indexOk_iff.mpr ⟨hlo, hhi⟩), getIndex_spec slot _ s⟩
  · exact exists_of_exec_raiseError (if_neg (by rw [indexOk_iff]; omega))

/-- Settles O21 (40_block_format.md R114). -/
theorem setIndex : Obligations.SetIndex := by
  intro s slot
  refine ⟨rfl, fun hilo hihi hvlo hvhi => ?_, fun hout => ?_⟩
  · have hok : (indexOk s.argInt0 && slotOk s.argInt3) = true := by
      rw [Bool.and_eq_true, indexOk_iff, slotOk_iff]; omega
    exact ⟨_, if_pos hok, setIndex_spec slot s (by omega) (by omega)⟩
  · have hnot : ¬ (indexOk s.argInt0 && slotOk s.argInt3) = true := by
      rw [Bool.and_eq_true, indexOk_iff, slotOk_iff]; omega
    exact exists_of_exec_raiseError (if_neg hnot)

/-- Settles O22 (40_block_format.md R108, R115). -/
theorem getIndexXY : Obligations.GetIndexXY := by
  intro s slot
  refine ⟨rfl, fun hxlo hxhi hylo hyhi => ?_, fun hout => ?_⟩
  · have hok : (coordOk s.argInt0 && coordOk s.argInt1) = true := by
      rw [Bool.and_eq_true, coordOk_iff, coordOk_iff]; omega
    rw [← coordIndex_eq hxlo hylo]
    exact ⟨_, if_pos hok, getIndex_spec slot _ s⟩
  · have hnot : ¬ (coordOk s.argInt0 && coordOk s.argInt1) = true := by
      rw [Bool.and_eq_true, coordOk_iff, coordOk_iff]; omega
    exact exists_of_exec_raiseError (if_neg hnot)

/-- Settles O23 (40_block_format.md R108, R116). -/
theorem setIndexXY : Obligations.SetIndexXY := by
  intro s slot
  refine ⟨rfl, fun hxlo hxhi hylo hyhi hvlo hvhi => ?_, fun hout => ?_⟩
  · have hok : (coordOk s.argInt0 && coordOk s.argInt1 && slotOk s.argInt3) = true := by
      rw [Bool.and_eq_true, Bool.and_eq_true, coordOk_iff, coordOk_iff, slotOk_iff]; omega
    have hindex : coordIndex s.argInt0 s.argInt1 ≤ 15 := by rw [coordIndex_eq hxlo hylo]; omega
    rw [← coordIndex_eq hxlo hylo]
    exact ⟨_, if_pos hok, setIndex_spec slot s hindex (by omega)⟩
  · have hnot : ¬ (coordOk s.argInt0 && coordOk s.argInt1 && slotOk s.argInt3) = true := by
      rw [Bool.and_eq_true, Bool.and_eq_true, coordOk_iff, coordOk_iff, slotOk_iff]; omega
    exact exists_of_exec_raiseError (if_neg hnot)

end Sys2Proof.Machine.BlockAccessors
end

section
/-! PROOFS. The shape of the palette (41_palette.md R130 to R133, R135, R136), said once for both of its forms: a list over a
mixing function. It is a walk from endpoint0 to endpoint1 in 7 or 5 equal parts, and R131 says which slot has which weight. -/

namespace Sys2Proof.Machine

/-! ### The slots of a palette -/

/-- The eight slots under a scheme, from a function that mixes the endpoints as `p` to `q` of `d`, the endpoints' own
entries, and the two extremes (41_palette.md R131). -/
def palSlots {α : Type} (mix : Int → Int → Int → α) (x y lo hi : α) : Scheme → List α
  | .eight => [x, y, mix 6 1 7, mix 5 2 7, mix 4 3 7, mix 3 4 7, mix 2 5 7, mix 1 6 7]
  | .six => [x, y, mix 4 1 5, mix 3 2 5, mix 2 3 5, mix 1 4 5, lo, hi]

/-- The integer mix of two endpoint values (41_palette.md R132, R133). -/
def intMix (a b p q d : Int) : Int := Int.tdiv (a * p + b * q) d

theorem palIntOf_eq_palSlots (ch : Channel) (a b : Int) :
    palIntOf ch a b = palSlots (intMix a b) a b (intLo ch) (intHi ch) (schemeOf a b) := by
  unfold palIntOf
  cases schemeOf a b <;> rfl

theorem palFMix_eq_palSlots (ch : Channel) (r0 r1 : Word) (n : Scheme) :
    palFMix ch r0 r1 n = palSlots (palMix r0 r1) r0 r1 (domLo ch) domHi n := by
  cases n <;> rfl

theorem schemeOf_eight {a b : Int} (h : a > b) : schemeOf a b = .eight := if_pos h

theorem schemeOf_six {a b : Int} (h : ¬ a > b) : schemeOf a b = .six := if_neg h

section
variable {α : Type} (mix : Int → Int → Int → α) (x y lo hi z : α)

/-- Slot `k` by the formulas of 41_palette.md R132, R133, R135 and R136. -/
theorem palSlots_schemeOf_getD (a b : Int) {k : Nat} (hk : k < 8) :
    (palSlots mix x y lo hi (schemeOf a b)).getD k z =
      if (k : Int) = 0 then x else if (k : Int) = 1 then y
      else if a > b then mix (8 - k) (k - 1) 7
      else if (k : Int) ≤ 5 then mix (6 - k) (k - 1) 5
      else if (k : Int) = 6 then lo else hi := by
  by_cases h : a > b
  · rw [schemeOf_eight h, if_pos h]
    interval_cases k <;> rfl
  · rw [schemeOf_six h, if_neg h]
    interval_cases k <;> rfl

/-- The number of equal parts between the endpoints (41_palette.md R132, R133). -/
def schemeParts : Scheme → Nat
  | .eight => 7
  | .six => 5

theorem schemeParts_pos (n : Scheme) : 0 < schemeParts n := by cases n <;> decide

theorem schemeParts_le (n : Scheme) : schemeParts n ≤ 7 := by cases n <;> decide

/-- The entry of weight `i` of `d` on the walk: at its ends an endpoint's own entry, else a mix. -/
def walkAt (d i : Nat) : α := if i = 0 then x else if i = d then y else mix (d - i) i d

/-- A slot holds an entry of the walk or an extreme. -/
theorem mem_palSlots {v : α} {n : Scheme} (h : v ∈ palSlots mix x y lo hi n) :
    (∃ i ≤ schemeParts n, v = walkAt mix x y (schemeParts n) i) ∨ v = lo ∨ v = hi := by
  cases n with
  | eight =>
    obtain ⟨i, hi, rfl⟩ : ∃ i ∈ [0, 7, 1, 2, 3, 4, 5, 6], walkAt mix x y 7 i = v := List.mem_map.1 h
    exact .inl ⟨i, (by decide : ∀ i ∈ [0, 7, 1, 2, 3, 4, 5, 6], i ≤ 7) i hi, rfl⟩
  | six =>
    have hsplit : v ∈ [0, 5, 1, 2, 3, 4].map (walkAt mix x y 5) ++ [lo, hi] := h
    rcases List.mem_append.1 hsplit with hwalk | hext
    · obtain ⟨i, hi, rfl⟩ := List.mem_map.1 hwalk
      exact .inl ⟨i, (by decide : ∀ i ∈ [0, 5, 1, 2, 3, 4], i ≤ 5) i hi, rfl⟩
    · exact .inr (by simpa using hext)

/-- Slots 0, 2, 3, 4, 5, 6, 7, 1 of the 8-point scheme walk from endpoint0 to endpoint1 (41_palette.md R131). -/
theorem palSlots_eight_in_order :
    [0, 2, 3, 4, 5, 6, 7, 1].map ((palSlots mix x y lo hi .eight).getD · z) =
      (List.range 8).map (walkAt mix x y 7) := rfl

/-- Slots 0, 2, 3, 4, 5, 1 of the 6-point scheme walk from endpoint0 to endpoint1 (41_palette.md R131). -/
theorem palSlots_six_in_order :
    [0, 2, 3, 4, 5, 1].map ((palSlots mix x y lo hi .six).getD · z) = (List.range 6).map (walkAt mix x y 5) := rfl

/-- A walk is ordered when every earlier entry is related to every later one. -/
theorem pairwise_walk {R : α → α → Prop} {f : Nat → α} {n : Nat} (h : ∀ i j, i < j → j ≤ n → R (f i) (f j)) :
    ((List.range (n + 1)).map f).Pairwise R := by
  rw [List.pairwise_map]
  exact List.pairwise_lt_range.imp_of_mem fun _ hj hij => h _ _ hij (Nat.le_of_lt_succ (List.mem_range.1 hj))

end

/-! ### Slots by the formulas of the rules -/

theorem intLo_eq (ch : Channel) : intLo ch = if ch = .unsigned then 0 else -127 := by cases ch <;> rfl

theorem intHi_eq (ch : Channel) : intHi ch = if ch = .unsigned then 255 else 127 := by cases ch <;> rfl

theorem palIntOf_getD (ch : Channel) (a b : Int) {k : Nat} (hk : k < 8) :
    (palIntOf ch a b).getD k 0 = slotInt ch a b k := by
  rw [palIntOf_eq_palSlots, palSlots_schemeOf_getD _ _ _ _ _ _ _ _ hk, slotInt, ← intLo_eq, ← intHi_eq]
  rfl

theorem domLo_eq (ch : Channel) : domLo ch = if ch = .unsigned then 0x00000000 else 0xBF800000 := by cases ch <;> rfl

theorem f32_intHi (ch : Channel) : f32 (intHi ch) = endpointScale ch := by cases ch <;> decide

theorem f32_seven : f32 7 = 0x40E00000 := by decide

theorem f32_five : f32 5 = 0x40A00000 := by decide

theorem palFOf_getD (ch : Channel) (a b : Int) {k : Nat} (hk : k < 8) :
    (palFOf ch a b).getD k 0 = slotFloat ch a b k := by
  rw [palFOf, palFMix_eq_palSlots, palSlots_schemeOf_getD _ _ _ _ _ _ _ _ hk]
  simp only [slotFloat, palMix, normEp, f32_intHi, f32_seven, f32_five, domLo_eq, domHi, f1]

/-! ### The integer palette -/

/-- Endpoint values lie between the extremes of their format (40_block_format.md R104). -/
theorem epValue_mem_Icc (b : Block) (ep : Ep) (ch : Channel) : epValue b ep ch ∈ Set.Icc (intLo ch) (intHi ch) := by
  cases ch with
  | unsigned =>
    have hbyte := (epRaw b ep).isLt
    simp only [epValue, intLo, intHi, Set.mem_Icc]
    omega
  | signed => exact epValue_signed_range b ep

/-- The endpoints themselves are the truncated mixes at the two ends. -/
theorem walkAt_intMix (a b : Int) {d : Nat} (hd : 0 < d) (i : Nat) :
    walkAt (intMix a b) a b d i = Int.tdiv (a * (d - i) + b * i) d := by
  unfold walkAt intMix
  split
  · next h => simp [h, hd.ne']
  · split
    · next h => simp [h, hd.ne']
    · rfl

/-- A mix of two values between integer bounds lies between them, truncated or not. -/
theorem walkAt_intMix_mem_Icc {lo hi a b : Int} {d i : Nat} (hd : 0 < d) (hid : i ≤ d) (ha : a ∈ Set.Icc lo hi)
    (hb : b ∈ Set.Icc lo hi) : walkAt (intMix a b) a b d i ∈ Set.Icc lo hi := by
  have hdpos : (0 : Int) < d := Int.natCast_pos.2 hd
  have hleft : (0 : Int) ≤ d - i := by omega
  have hright : (0 : Int) ≤ i := Int.natCast_nonneg i
  have hlo : lo * d ≤ a * (d - i) + b * i := by
    linarith [mul_le_mul_of_nonneg_right ha.1 hleft, mul_le_mul_of_nonneg_right hb.1 hright, mul_sub lo d i]
  have hhi : a * (d - i) + b * i ≤ hi * d := by
    linarith [mul_le_mul_of_nonneg_right ha.2 hleft, mul_le_mul_of_nonneg_right hb.2 hright, mul_sub hi d i]
  rw [walkAt_intMix a b hd]
  constructor
  · exact (Int.mul_tdiv_cancel lo hdpos.ne').symm.trans_le (Int.tdiv_le_tdiv hdpos hlo)
  · exact (Int.tdiv_le_tdiv hdpos hhi).trans_eq (Int.mul_tdiv_cancel hi hdpos.ne')

theorem mem_palInt_mem_Icc {b : Block} {ch : Channel} {v : Int} (h : v ∈ palInt b ch) :
    v ∈ Set.Icc (intLo ch) (intHi ch) := by
  rw [palInt, palIntOf_eq_palSlots] at h
  rcases mem_palSlots _ _ _ _ _ h with ⟨i, hi, rfl⟩ | rfl | rfl
  · exact walkAt_intMix_mem_Icc (schemeParts_pos _) hi (epValue_mem_Icc b .e0 ch) (epValue_mem_Icc b .e1 ch)
  · cases ch <;> decide
  · cases ch <;> decide

/-- The exact numerators of a walk up rise. -/
theorem walk_up {a b d i j : Int} (hab : a < b) (hij : i < j) : a * (d - i) + b * i < a * (d - j) + b * j := by
  linarith [mul_pos (sub_pos.2 hab) (sub_pos.2 hij), sub_mul b a (j - i), mul_sub a j i, mul_sub b j i, mul_sub a d i,
    mul_sub a d j]

/-- The exact numerators of a walk down fall. -/
theorem walk_down {a b d i j : Int} (hab : b < a) (hij : i < j) : a * (d - j) + b * j < a * (d - i) + b * i := by
  linarith [walk_up (d := d) (neg_lt_neg hab) hij]

/-- Settles O33 (41_palette.md R137): truncation is monotone, so it keeps bounds and order of the exact mixes. -/
theorem integerPaletteRangeAndOrder : Obligations.IntegerPaletteRangeAndOrder := by
  refine ⟨fun b v h => mem_palInt_mem_Icc h, fun b v h => mem_palInt_mem_Icc h, fun b ch h => ?_, fun b ch h => ?_⟩
  · rw [palInt, palIntOf_eq_palSlots, schemeOf_eight h, palSlots_eight_in_order]
    refine pairwise_walk fun i j hij _ => ?_
    rw [ge_iff_le, walkAt_intMix _ _ (by decide), walkAt_intMix _ _ (by decide)]
    exact Int.tdiv_le_tdiv (by decide) (walk_down h (Int.ofNat_lt.2 hij)).le
  · rw [palInt, palIntOf_eq_palSlots, schemeOf_six h.not_gt, palSlots_six_in_order]
    refine pairwise_walk fun i j hij _ => ?_
    rw [walkAt_intMix _ _ (by decide), walkAt_intMix _ _ (by decide)]
    exact Int.tdiv_le_tdiv (by decide) (walk_up h (Int.ofNat_lt.2 hij)).le

end Sys2Proof.Machine
end

section
/-! PROOFS. The binary32 palette (41_palette.md R134 to R137). Two facts about one rounding carry it. A rounded value does not
cross an integer that the exact one does not cross, since the integer is itself a candidate; so every entry stays inside the
domain. And below 8.0 a rounding is off by at most 2^-21, so an entry by at most 17 * 2^-21 in units of 1/7 or 1/5, while
the exact entries next to each other are at least 1/255 apart in those units; so the entries are in order. -/

namespace Sys2Proof.Machine

/-! ### One rounding -/

theorem quotDist_roundNearestEven_le {den : Nat} (num : Nat) (hden : 0 < den) :
    quotDist (roundNearestEven num den) num den ≤ den := by
  have hnear := (roundNearestEven_nearest num (num / den) hden).1
  have hdiv := Nat.div_add_mod' num den
  have hmod := Nat.mod_lt num hden
  simp only [quotDist, ← Nat.cast_mul] at hnear ⊢
  omega

/-- Quotients below 2^152 units are rounded to multiples of at most 2^128 units. -/
theorem roundScale_le {num den : Nat} (h : num / den < 2 ^ 152) : roundScale num den ≤ 128 := by
  unfold roundScale
  rcases eq_or_ne (num / den) 0 with hzero | hne
  · rw [hzero]; decide
  · have := (Nat.log2_lt hne).2 h
    omega

/-- The word `w` is `y / den` units rounded to nearest; the error bound is that of quotients up to 7.0. -/
structure RoundsTo (w : Word) (y den : Int) : Prop where
  finite : fisFinite w = true
  nearest : ∀ c : Word, (funits w * den - y).natAbs ≤ (funits c * den - y).natAbs
  error : |funits w * den - y| ≤ 2 ^ 128 * den

theorem roundWord_roundsTo {neg : Bool} {y : Int} {den : Nat} (hden : 0 < den) (hsign : SignFits neg y)
    (hy : |y| ≤ 7 * 2 ^ 149 * den) : RoundsTo (roundWord neg y.natAbs den) y den := by
  have hnum : y.natAbs ≤ 7 * 2 ^ 149 * den := by zify; exact hy
  have hfin : fisFinite (roundWord neg y.natAbs den) = true := by
    have hbits : ¬ 0x7F800000 ≤ roundBits y.natAbs den := by rw [le_roundBits_iff hden]; omega
    rw [fisFinite_iff, roundWord, magBits_fpack (roundMag_lt _ _), roundMag_eq_min]
    omega
  refine ⟨hfin, fun c => (roundWord_nearest hden hsign hfin c).1, ?_⟩
  have hscale : roundScale y.natAbs den ≤ 128 := roundScale_le (Nat.div_lt_of_lt_mul (by omega))
  have hspacing : den * 2 ^ roundScale y.natAbs den ≤ den * 2 ^ 128 :=
    Nat.mul_le_mul_left _ (Nat.pow_le_pow_right (by decide) hscale)
  have herror := quotDist_roundNearestEven_le y.natAbs (Nat.mul_pos hden (Nat.two_pow_pos (roundScale y.natAbs den)))
  rw [← quotDist_mul_right, ← magUnits_roundBits, ← (roundWord_of_finite hfin).2,
    ← quotDist_fmag_eq (by rwa [fsign_roundWord])] at herror
  rw [Int.abs_eq_natAbs]
  omega

theorem RoundsTo.of_scaled {w : Word} {y den k : Int} (h : RoundsTo w (y * k) (den * k)) (hk : 0 < k) :
    RoundsTo w y den := by
  have hdist (c : Word) : funits c * (den * k) - y * k = (funits c * den - y) * k := by ring
  refine ⟨h.finite, fun c => ?_, ?_⟩
  · have hnear := h.nearest c
    rw [hdist, hdist, Int.natAbs_mul, Int.natAbs_mul] at hnear
    exact Nat.le_of_mul_le_mul_right hnear (Int.natAbs_pos.2 hk.ne')
  · have herror := h.error
    rw [hdist, abs_mul, abs_of_pos hk, ← mul_assoc] at herror
    exact le_of_mul_le_mul_right herror hk

/-- A value that the exact quotient does not exceed is not exceeded by the rounded one. -/
theorem RoundsTo.le {w : Word} {y den : Int} (h : RoundsTo w y den) (hden : 0 < den) {c : Word}
    (hc : y ≤ funits c * den) : funits w ≤ funits c := by
  by_contra hlt
  have hmul := mul_lt_mul_of_pos_right (not_le.1 hlt) hden
  have hnear := h.nearest c
  omega

theorem RoundsTo.ge {w : Word} {y den : Int} (h : RoundsTo w y den) (hden : 0 < den) {c : Word}
    (hc : funits c * den ≤ y) : funits c ≤ funits w := by
  by_contra hlt
  have hmul := mul_lt_mul_of_pos_right (not_le.1 hlt) hden
  have hnear := h.nearest c
  omega

/-! ### Values between integers -/

/-- A finite value from `lo` to `hi`. -/
structure Between (lo hi : Int) (w : Word) : Prop where
  finite : fisFinite w = true
  ge : lo * 2 ^ 149 ≤ funits w
  le : funits w ≤ hi * 2 ^ 149

/-- Rounding keeps integer bounds. -/
theorem RoundsTo.between {w : Word} {y den lo hi : Int} (h : RoundsTo w y den) (hden : 0 < den)
    (hlo : lo * 2 ^ 149 * den ≤ y) (hhi : y ≤ hi * 2 ^ 149 * den) (hloSmall : lo.natAbs ≤ 2 ^ 24)
    (hhiSmall : hi.natAbs ≤ 2 ^ 24) : Between lo hi w := by
  have hfloor := (integerConversionExact lo hloSmall).2
  have hceil := (integerConversionExact hi hhiSmall).2
  exact ⟨h.finite, hfloor ▸ h.ge hden (hfloor ▸ hlo), hceil ▸ h.le hden (hceil ▸ hhi)⟩

/-! ### The operations of the palette -/

theorem fmul_f32_roundsTo {r : Word} {p : Int} (hr : Between (-1) 1 r) (hp : 0 ≤ p) (hp7 : p ≤ 7) :
    RoundsTo (fmul r (f32 p)) (funits r * p) 1 := by
  obtain ⟨hfin, hlo, hhi⟩ := hr
  obtain ⟨hpfin, hpunits⟩ := integerConversionExact p (by omega)
  have hbound : |funits r * funits (f32 p)| ≤ 7 * 2 ^ 149 * (2 ^ 149 : Nat) := by
    have habs : |funits r| ≤ 2 ^ 149 := abs_le.2 (by omega)
    rw [hpunits, ← mul_assoc, abs_mul, abs_mul, abs_of_nonneg hp, mul_comm 7]
    exact mul_le_mul_of_nonneg_right (mul_le_mul habs hp7 hp (by decide)) (by decide)
  have hround := roundWord_roundsTo (Nat.two_pow_pos 149) ((signFits_funits r).mul (signFits_funits (f32 p))) hbound
  rw [← fmul_of_finite hfin hpfin, hpunits, ← mul_assoc] at hround
  exact RoundsTo.of_scaled (k := 2 ^ 149) hround (by decide)

theorem fadd_roundsTo {a b : Word} (ha : fisFinite a = true) (hb : fisFinite b = true)
    (h : |funits a + funits b| ≤ 7 * 2 ^ 149) : RoundsTo (fadd a b) (funits a + funits b) 1 := by
  rw [fadd_of_finite ha hb]
  exact roundWord_roundsTo one_pos (signFits_faddSign a b) (by simpa using h)

theorem fdiv_f32_roundsTo {a : Word} {d : Int} (ha : fisFinite a = true) (hd : 0 < d) (hsmall : d ≤ 2 ^ 24)
    (h : |funits a| ≤ 7 * 2 ^ 149 * d) : RoundsTo (fdiv a (f32 d)) (funits a) d := by
  obtain ⟨hdfin, hdunits⟩ := integerConversionExact d (by omega)
  have hpos : 0 < funits (f32 d) := by rw [hdunits]; omega
  have hnum : fdivNum a (f32 d) = funits a * 2 ^ 149 := by
    rw [fdivNum, Int.sign_eq_one_of_pos hpos, mul_one]
  have hden : ((funits (f32 d)).natAbs : Int) = d * 2 ^ 149 := by rw [Int.natAbs_of_nonneg hpos.le, hdunits]
  have hround := roundWord_roundsTo (y := fdivNum a (f32 d)) (Int.natAbs_pos.2 hpos.ne') (signFits_fdivNum a (f32 d))
    (by rw [hnum, hden, abs_mul, ← mul_assoc]; exact mul_le_mul_of_nonneg_right h (by decide))
  rw [← fdiv_of_finite ha hdfin hpos.ne', hden, hnum] at hround
  exact RoundsTo.of_scaled hround (by decide)

theorem fmul_f32_between {lo : Int} (hlo : lo = 0 ∨ lo = -1) {r : Word} {p : Int} (hr : Between lo 1 r) (hp : 0 ≤ p)
    (hp7 : p ≤ 7) :
    Between (lo * p) p (fmul r (f32 p)) ∧ |funits (fmul r (f32 p)) - funits r * p| ≤ 2 ^ 128 := by
  obtain ⟨hfin, hge, hle⟩ := hr
  have hround := fmul_f32_roundsTo ⟨hfin, by omega, hle⟩ hp hp7
  have hbelow := mul_le_mul_of_nonneg_right hge hp
  have habove := mul_le_mul_of_nonneg_right hle hp
  refine ⟨hround.between one_pos ?_ ?_ ?_ ?_, by simpa using hround.error⟩
  · linarith
  · linarith
  · rcases hlo with rfl | rfl <;> omega
  · omega

/-- The mix before its division. -/
theorem fadd_fmul_between {lo : Int} (hlo : lo = 0 ∨ lo = -1) {r0 r1 : Word} (h0 : Between lo 1 r0)
    (h1 : Between lo 1 r1) {p q : Int} (hp : 0 ≤ p) (hq : 0 ≤ q) (hpq : p + q ≤ 7) :
    Between (lo * (p + q)) (p + q) (fadd (fmul r0 (f32 p)) (fmul r1 (f32 q))) ∧
      |funits (fadd (fmul r0 (f32 p)) (fmul r1 (f32 q))) - (funits r0 * p + funits r1 * q)| ≤ 3 * 2 ^ 128 := by
  obtain ⟨⟨hfin0, hge0, hle0⟩, herror0⟩ := fmul_f32_between hlo h0 hp (by omega)
  obtain ⟨⟨hfin1, hge1, hle1⟩, herror1⟩ := fmul_f32_between hlo h1 hq (by omega)
  have hsum : |funits (fmul r0 (f32 p)) + funits (fmul r1 (f32 q))| ≤ 7 * 2 ^ 149 := by
    rw [abs_le]
    rcases hlo with rfl | rfl <;> omega
  have hround := fadd_roundsTo hfin0 hfin1 hsum
  have herror := hround.error
  rw [abs_le] at herror herror0 herror1 ⊢
  refine ⟨hround.between one_pos ?_ ?_ ?_ ?_, by omega, by omega⟩
  · linarith
  · linarith
  · rcases hlo with rfl | rfl <;> omega
  · omega

/-- One entry of the mix (41_palette.md R135, R136): it stays in the endpoints' domain, and is off by three roundings
before the division and by one of its own. -/
theorem palMix_between {lo : Int} (hlo : lo = 0 ∨ lo = -1) {r0 r1 : Word} (h0 : Between lo 1 r0) (h1 : Between lo 1 r1)
    {p q d : Int} (hp : 0 ≤ p) (hq : 0 ≤ q) (hpq : p + q = d) (hd : 0 < d) (hd7 : d ≤ 7) :
    Between lo 1 (palMix r0 r1 p q d) ∧
      |funits (palMix r0 r1 p q d) * d - (funits r0 * p + funits r1 * q)| ≤ (3 + d) * 2 ^ 128 := by
  subst hpq
  obtain ⟨⟨hfin, hge, hle⟩, hmix⟩ := fadd_fmul_between hlo h0 h1 hp hq hd7
  have hquot : |funits (fadd (fmul r0 (f32 p)) (fmul r1 (f32 q)))| ≤ 7 * 2 ^ 149 * (p + q) := by
    rw [abs_le]
    rcases hlo with rfl | rfl <;> omega
  have hround := fdiv_f32_roundsTo hfin hd (by omega) hquot
  have herror := hround.error
  refine ⟨hround.between hd (by linarith) (by linarith) ?_ (by decide), ?_⟩
  · rcases hlo with rfl | rfl <;> decide
  · unfold palMix
    rw [abs_le] at herror hmix ⊢
    constructor <;> linarith

/-! ### The domain -/

/-- The low end of the domain as an integer (42_encoder.md R161). -/
def domLoInt : Channel → Int
  | .unsigned => 0
  | .signed => -1

theorem domLoInt_cases (ch : Channel) : domLoInt ch = 0 ∨ domLoInt ch = -1 := by cases ch <;> decide

theorem funits_domLo (ch : Channel) : funits (domLo ch) = domLoInt ch * 2 ^ 149 := by cases ch <;> decide +kernel

theorem funits_domHi : funits domHi = 2 ^ 149 := by decide +kernel

theorem domLo_between (ch : Channel) : Between (domLoInt ch) 1 (domLo ch) :=
  ⟨by cases ch <;> decide, (funits_domLo ch).ge, by rw [funits_domLo]; cases ch <;> decide⟩

theorem domHi_between (ch : Channel) : Between (domLoInt ch) 1 domHi :=
  ⟨by decide, by rw [funits_domHi]; cases ch <;> decide, by rw [funits_domHi]; decide⟩

theorem fle_iff_of_finite {u v : Word} (hu : fisFinite u = true) (hv : fisFinite v = true) :
    fle u v = true ↔ funits u ≤ funits v := by
  simp [fle, fisNaN_of_finite hu, fisNaN_of_finite hv]

/-- The normalized endpoints (41_palette.md R134) are in the domain, and one rounding off. -/
theorem normEp_between {ch : Channel} {v : Int} (hv : v ∈ Set.Icc (intLo ch) (intHi ch)) :
    Between (domLoInt ch) 1 (normEp ch v) ∧ |funits (normEp ch v) * intHi ch - v * 2 ^ 149| ≤ 2 ^ 128 * intHi ch := by
  obtain ⟨hlo, hhi⟩ := hv
  have hscale : 0 < intHi ch ∧ intHi ch ≤ 255 := by cases ch <;> decide
  have hlow : domLoInt ch * intHi ch = intLo ch ∧ -255 ≤ intLo ch := by cases ch <;> decide
  obtain ⟨hfin, hunits⟩ := integerConversionExact v (by omega)
  have hquot : |funits (f32 v)| ≤ 7 * 2 ^ 149 * intHi ch := by
    have hneg : -intHi ch ≤ intLo ch := by cases ch <;> decide
    rw [hunits, abs_le]
    omega
  have hround := fdiv_f32_roundsTo hfin hscale.1 (by omega) hquot
  rw [hunits] at hround
  refine ⟨hround.between hscale.1 (by linarith) (by linarith) ?_ (by decide), hround.error⟩
  cases ch <;> decide

/-! ### The walk in binary32 -/

/-- Every entry of a walk, its ends included, is in the domain and off by at most what a mix is. -/
theorem walkAt_palMix_between {lo : Int} (hlo : lo = 0 ∨ lo = -1) {r0 r1 : Word} (h0 : Between lo 1 r0)
    (h1 : Between lo 1 r1) {d i : Nat} (hd : 0 < d) (hd7 : d ≤ 7) (hid : i ≤ d) :
    Between lo 1 (walkAt (palMix r0 r1) r0 r1 d i) ∧
      |funits (walkAt (palMix r0 r1) r0 r1 d i) * d - (funits r0 * (d - i) + funits r1 * i)| ≤ (3 + d) * 2 ^ 128 := by
  unfold walkAt
  split
  · next hfirst =>
    subst hfirst
    exact ⟨h0, by simp; omega⟩
  · split
    · next hlast =>
      subst hlast
      exact ⟨h1, by simp; omega⟩
    · exact palMix_between hlo h0 h1 (by omega) (by omega) (by omega) (by omega) (by omega)

/-- `w` is near `x / (d * D)`, the exact entry of numerator `x`: off by a rounding of each endpoint, three of the mix and
one of the division. -/
def NearEntry (D d x : Int) (w : Word) : Prop := |funits w * (d * D) - x * 2 ^ 149| ≤ (3 + 2 * d) * D * 2 ^ 128

/-- Endpoints `u` and `v` each off by a rounding, and a mix of them off by four. -/
theorem nearEntry_of_errors {D d p q a b u v : Int} {w : Word} (hD : 0 < D) (hp : 0 ≤ p) (hq : 0 ≤ q) (hpq : p + q = d)
    (hu : |u * D - a * 2 ^ 149| ≤ 2 ^ 128 * D) (hv : |v * D - b * 2 ^ 149| ≤ 2 ^ 128 * D)
    (hw : |funits w * d - (u * p + v * q)| ≤ (3 + d) * 2 ^ 128) : NearEntry D d (a * p + b * q) w := by
  have hsplit : funits w * (d * D) - (a * p + b * q) * 2 ^ 149 =
      (funits w * d - (u * p + v * q)) * D + (u * D - a * 2 ^ 149) * p + (v * D - b * 2 ^ 149) * q := by ring
  have hmul {x y k : Int} (h : |x| ≤ y) (hk : 0 ≤ k) : |x * k| ≤ y * k := by
    rw [abs_mul, abs_of_nonneg hk]
    exact mul_le_mul_of_nonneg_right h hk
  unfold NearEntry
  rw [hsplit]
  calc _ ≤ _ := abs_add_three _ _ _
    _ ≤ (3 + d) * 2 ^ 128 * D + 2 ^ 128 * D * p + 2 ^ 128 * D * q :=
      add_le_add_three (hmul hw hD.le) (hmul hu hp) (hmul hv hq)
    _ = (3 + 2 * d) * D * 2 ^ 128 := by rw [← hpq]; ring

/-- Exact entries are further apart than two of them are off. -/
theorem NearEntry.funits_le {D d x x' : Int} {w w' : Word} (h : NearEntry D d x w) (h' : NearEntry D d x' w')
    (hx : x < x') (hd : 0 < d) (hd7 : d ≤ 7) (hD : 0 < D) (hD255 : D ≤ 255) : funits w ≤ funits w' := by
  have herror : (3 + 2 * d) * D ≤ 17 * 255 := mul_le_mul (by omega) hD255 hD.le (by decide)
  unfold NearEntry at h h'
  rw [abs_le] at h h'
  by_contra hlt
  have hmul := mul_lt_mul_of_pos_right (not_le.1 hlt) (mul_pos hd hD)
  omega

/-- The entry of weight `i` of `d` between the endpoints of a block. -/
def blockWalk (b : Block) (ch : Channel) (d i : Nat) : Word :=
  walkAt (palMix (normEp ch (epValue b .e0 ch)) (normEp ch (epValue b .e1 ch))) (normEp ch (epValue b .e0 ch))
    (normEp ch (epValue b .e1 ch)) d i

theorem palF_eq_palSlots (b : Block) (ch : Channel) :
    palF b ch = palSlots (palMix (normEp ch (epValue b .e0 ch)) (normEp ch (epValue b .e1 ch)))
      (normEp ch (epValue b .e0 ch)) (normEp ch (epValue b .e1 ch)) (domLo ch) domHi
      (schemeOf (epValue b .e0 ch) (epValue b .e1 ch)) := by
  rw [palF, palFOf, palFMix_eq_palSlots]

section
variable (b : Block) (ch : Channel) {d i : Nat} (hd : 0 < d) (hd7 : d ≤ 7)
include hd hd7

theorem blockWalk_spec (hid : i ≤ d) : Between (domLoInt ch) 1 (blockWalk b ch d i) ∧
    NearEntry (intHi ch) d (epValue b .e0 ch * (d - i) + epValue b .e1 ch * i) (blockWalk b ch d i) := by
  obtain ⟨hdom0, herror0⟩ := normEp_between (epValue_mem_Icc b .e0 ch)
  obtain ⟨hdom1, herror1⟩ := normEp_between (epValue_mem_Icc b .e1 ch)
  obtain ⟨hdom, herror⟩ := walkAt_palMix_between (domLoInt_cases ch) hdom0 hdom1 hd hd7 hid
  have hscale : 0 < intHi ch := by cases ch <;> decide
  exact ⟨hdom, nearEntry_of_errors hscale (by omega) (by omega) (by omega) herror0 herror1 herror⟩

/-- Entries of the walk are in the order of their exact numerators. -/
theorem fle_blockWalk {j : Nat} (hid : i ≤ d) (hjd : j ≤ d)
    (h : epValue b .e0 ch * (d - i) + epValue b .e1 ch * i < epValue b .e0 ch * (d - j) + epValue b .e1 ch * j) :
    fle (blockWalk b ch d i) (blockWalk b ch d j) = true := by
  obtain ⟨hdom, hnear⟩ := blockWalk_spec b ch hd hd7 hid
  obtain ⟨hdom', hnear'⟩ := blockWalk_spec b ch hd hd7 hjd
  have hscale : 0 < intHi ch ∧ intHi ch ≤ 255 := by cases ch <;> decide
  rw [fle_iff_of_finite hdom.finite hdom'.finite]
  exact hnear.funits_le hnear' h (by omega) (by omega) hscale.1 hscale.2

end

theorem mem_palF_between {b : Block} {ch : Channel} {w : Word} (h : w ∈ palF b ch) : Between (domLoInt ch) 1 w := by
  rw [palF_eq_palSlots] at h
  rcases mem_palSlots _ _ _ _ _ h with ⟨i, hi, rfl⟩ | rfl | rfl
  · exact (blockWalk_spec b ch (schemeParts_pos _) (schemeParts_le _) hi).1
  · exact domLo_between ch
  · exact domHi_between ch

/-- Settles O34 (41_palette.md R137): roundings keep the domain's bounds, and the walk's order. -/
theorem floatPaletteRange : Obligations.FloatPaletteRange := by
  refine ⟨fun b ch w h => ?_, fun b ch h => ?_, fun b ch h => ?_⟩
  · obtain ⟨hfin, hge, hle⟩ := mem_palF_between h
    rw [← domLo_eq, fle_iff_of_finite (domLo_between ch).finite hfin, funits_domLo]
    refine ⟨hfin, hge, ?_⟩
    exact (fle_iff_of_finite hfin (domHi_between ch).finite).2 (by rw [funits_domHi]; exact hle)
  · rw [palF_eq_palSlots, schemeOf_eight h, palSlots_eight_in_order]
    exact pairwise_walk fun i j hij hj =>
      fle_blockWalk b ch (by decide) (by decide) hj (by omega) (walk_down h (Int.ofNat_lt.2 hij))
  · rw [palF_eq_palSlots, schemeOf_six h.not_gt, palSlots_six_in_order]
    exact pairwise_walk fun i j hij hj =>
      fle_blockWalk b ch (by decide) (by decide) (by omega) hj (walk_up h (Int.ofNat_lt.2 hij))

end Sys2Proof.Machine
end

section
/-! PROOFS. The palette commands (41_palette.md R138 to R146). A GET_R ends with one entry in RESULT and a GET_RVALUES with all
eight in OUT, or with the error of its one check; the commands of a kind differ in the palette alone. -/

namespace Sys2Proof.Machine

/-! ### The words of the palettes -/

/-- An integer entry is its word read as a signed number (41_palette.md R138, R143). -/
theorem palIntWords_getD_toInt (b : Block) (ch : Channel) {k : Nat} (hk : k < 8) :
    ((palIntWords b ch).getD k 0).toInt = slotInt ch (epValue b .e0 ch) (epValue b .e1 ch) k := by
  have hlen : k < (palInt b ch).length := by rwa [palInt_length]
  obtain ⟨hlo, hhi⟩ := mem_palInt_mem_Icc (List.getElem_mem hlen)
  have hsmall : -127 ≤ intLo ch ∧ intHi ch ≤ 255 := by cases ch <;> decide
  have hword : (palIntWords b ch).getD k 0 = wordOfInt (palInt b ch)[k] := by
    rw [palIntWords, List.getD_eq_getElem _ _ (by rwa [List.length_map]), List.getElem_map]
  rw [hword, wordOfInt, BitVec.toInt_ofInt_eq_self (by decide) (by omega) (by omega), ← palIntOf_getD ch _ _ hk,
    ← palInt, List.getD_eq_getElem _ _ hlen]

theorem palF_getD (b : Block) (ch : Channel) {k : Nat} (hk : k < 8) :
    (palF b ch).getD k 0 = slotFloat ch (epValue b .e0 ch) (epValue b .e1 ch) k :=
  palFOf_getD ch _ _ hk

/-! ### GET_R -/

/-- A GET_R of a slot in range completes with that entry of its palette in RESULT and changes nothing else. -/
theorem exists_of_exec_getEntry {i : Instr} {s : State} {pal : List Word} (h : exec i s = .next (getEntry pal s))
    (hlo : 0 ≤ s.argInt0) (hhi : s.argInt0 ≤ 7) :
    ∃ k < 8, s.argInt0 = (k : Nat) ∧ ∃ t, exec i s = .next t ∧ t.result = pal.getD k 0 ∧
      CompletedWith .none s t ∧ KeepsAllButResult s t := by
  rw [getEntry, if_pos (slotOk_iff.2 ⟨hlo, hhi⟩)] at h
  exact ⟨s.argInt0.toNat, by omega, by omega, _, h, finishResult_spec s _⟩

/-- A GET_R of a slot out of range raises OUT_OF_RANGE. -/
theorem exists_of_exec_getEntry_out {i : Instr} {s : State} {pal : List Word} (h : exec i s = .next (getEntry pal s))
    (hout : s.argInt0 < 0 ∨ 7 < s.argInt0) :
    ∃ t, exec i s = .next t ∧ CompletedWith .outOfRange s t ∧ KeepsAll s t := by
  rw [getEntry, if_neg (by rw [slotOk_iff]; omega)] at h
  exact exists_of_exec_raiseError h

/-- Settles O25 (41_palette.md R138). -/
theorem getEntryUnsignedInteger : Obligations.GetEntryUnsignedInteger := by
  intro s slot
  refine ⟨rfl, fun hlo hhi => ?_, exists_of_exec_getEntry_out rfl⟩
  obtain ⟨k, hk, harg, t, hexec, hresult, hends⟩ := exists_of_exec_getEntry (i := .getRUI slot) rfl hlo hhi
  exact ⟨t, hexec, by rw [hresult, harg, palIntWords_getD_toInt _ _ hk], hends⟩

/-- Settles O26 (41_palette.md R139). -/
theorem getEntryUnsignedFloat : Obligations.GetEntryUnsignedFloat := by
  intro s slot
  refine ⟨rfl, fun hlo hhi => ?_, exists_of_exec_getEntry_out rfl⟩
  obtain ⟨k, hk, harg, t, hexec, hresult, hends⟩ := exists_of_exec_getEntry (i := .getRUF slot) rfl hlo hhi
  exact ⟨t, hexec, by rw [hresult, harg, palF_getD _ _ hk], hends⟩

/-- Settles O27 (41_palette.md R140). -/
theorem getEntrySignedInteger : Obligations.GetEntrySignedInteger := by
  intro s slot
  refine ⟨rfl, fun hlo hhi => ?_, exists_of_exec_getEntry_out rfl⟩
  obtain ⟨k, hk, harg, t, hexec, hresult, hends⟩ := exists_of_exec_getEntry (i := .getRSI slot) rfl hlo hhi
  exact ⟨t, hexec, by rw [hresult, harg, palIntWords_getD_toInt _ _ hk], hends⟩

/-- Settles O28 (41_palette.md R141). -/
theorem getEntrySignedFloat : Obligations.GetEntrySignedFloat := by
  intro s slot
  refine ⟨rfl, fun hlo hhi => ?_, exists_of_exec_getEntry_out rfl⟩
  obtain ⟨k, hk, harg, t, hexec, hresult, hends⟩ := exists_of_exec_getEntry (i := .getRSF slot) rfl hlo hhi
  exact ⟨t, hexec, by rw [hresult, harg, palF_getD _ _ hk], hends⟩

/-! ### GET_RVALUES -/

theorem outError_of_valid {s : State} (hvalid : s.operands.bufcfg.getLsbD 1 = true) :
    outError s = rangeError (outFits s) := if_pos hvalid

theorem outError_of_missing {s : State} (hmissing : s.operands.bufcfg.getLsbD 1 = false) :
    outError s = .missingArgument := if_neg (by rw [hmissing]; decide)

/-- A GET_RVALUES whose check fails raises what the check found. -/
theorem exists_of_exec_writePalette_error {i : Instr} {s : State} {pal : List Word} {c : ErrCode}
    (h : exec i s = .next (writePalette pal s)) (hc : outError s = c) (hne : c ≠ .none) :
    ∃ t, exec i s = .next t ∧ CompletedWith c s t ∧ KeepsAll s t := by
  rw [writePalette, checkDst_eq_outError, hc, if_neg hne] at h
  exact exists_of_exec_raiseError h

section
variable {i : Instr} {s : State} {pal : List Word} (h : exec i s = .next (writePalette pal s))
include h

theorem exists_of_exec_writePalette_missing (hmissing : s.operands.bufcfg.getLsbD 1 = false) :
    ∃ t, exec i s = .next t ∧ CompletedWith .missingArgument s t ∧ KeepsAll s t :=
  exists_of_exec_writePalette_error h (outError_of_missing hmissing) (by decide)

theorem exists_of_exec_writePalette_out (hvalid : s.operands.bufcfg.getLsbD 1 = true) (hfits : outFits s = false) :
    ∃ t, exec i s = .next t ∧ CompletedWith .outOfRange s t ∧ KeepsAll s t :=
  exists_of_exec_writePalette_error h (by rw [outError_of_valid hvalid, hfits]; rfl) (by decide)

/-- A GET_RVALUES with room for its eight words completes with them in OUT and changes nothing else. -/
theorem exists_of_exec_writePalette (hlen : pal.length = 8) (hvalid : s.operands.bufcfg.getLsbD 1 = true)
    (hfits : outFits s = true) :
    ∃ t, exec i s = .next t ∧
      (∀ k < 8, t.readWord (0x2000 + 4 * (s.operands.dstBase.toNat + s.argInt0.toNat + k)) = pal.getD k 0) ∧
      CompletedWith .none s t ∧ KeepsAllButOut (0x2000 + 4 * (s.operands.dstBase.toNat + s.argInt0.toNat)) 32 s t := by
  have hnone : outError s = .none := by rw [outError_of_valid hvalid, hfits]; rfl
  rw [writePalette, checkDst_eq_outError, if_pos hnone] at h
  obtain ⟨hwords, hcompleted, hkeeps⟩ := outWriteAll_complete_spec s s.outIndex pal
  rw [hlen] at hkeeps
  refine ⟨_, h, fun k hk => ?_, hcompleted, hkeeps⟩
  have hlt : k < pal.length := by rwa [hlen]
  rw [List.getD_eq_getElem _ _ hlt]
  exact hwords k hlt

end

/-- Settles O29 (41_palette.md R142, R143). -/
theorem writePaletteUnsignedInteger : Obligations.WritePaletteUnsignedInteger := by
  intro s slot
  refine ⟨rfl, fun hvalid hfits => ?_, exists_of_exec_writePalette_missing rfl, exists_of_exec_writePalette_out rfl⟩
  obtain ⟨t, hexec, hwords, hends⟩ :=
    exists_of_exec_writePalette (i := .getRValuesUI slot) rfl (palIntWords_length _ _) hvalid hfits
  exact ⟨t, hexec, fun k hk => by rw [hwords k hk, palIntWords_getD_toInt _ _ hk], hends⟩

/-- Settles O30 (41_palette.md R142, R144). -/
theorem writePaletteUnsignedFloat : Obligations.WritePaletteUnsignedFloat := by
  intro s slot
  refine ⟨rfl, fun hvalid hfits => ?_, exists_of_exec_writePalette_missing rfl, exists_of_exec_writePalette_out rfl⟩
  obtain ⟨t, hexec, hwords, hends⟩ :=
    exists_of_exec_writePalette (i := .getRValuesUF slot) rfl (palF_length _ _) hvalid hfits
  exact ⟨t, hexec, fun k hk => by rw [hwords k hk, palF_getD _ _ hk], hends⟩

/-- Settles O31 (41_palette.md R142, R145). -/
theorem writePaletteSignedInteger : Obligations.WritePaletteSignedInteger := by
  intro s slot
  refine ⟨rfl, fun hvalid hfits => ?_, exists_of_exec_writePalette_missing rfl, exists_of_exec_writePalette_out rfl⟩
  obtain ⟨t, hexec, hwords, hends⟩ :=
    exists_of_exec_writePalette (i := .getRValuesSI slot) rfl (palIntWords_length _ _) hvalid hfits
  exact ⟨t, hexec, fun k hk => by rw [hwords k hk, palIntWords_getD_toInt _ _ hk], hends⟩

/-- Settles O32 (41_palette.md R142, R146). -/
theorem writePaletteSignedFloat : Obligations.WritePaletteSignedFloat := by
  intro s slot
  refine ⟨rfl, fun hvalid hfits => ?_, exists_of_exec_writePalette_missing rfl, exists_of_exec_writePalette_out rfl⟩
  obtain ⟨t, hexec, hwords, hends⟩ :=
    exists_of_exec_writePalette (i := .getRValuesSF slot) rfl (palF_length _ _) hvalid hfits
  exact ⟨t, hexec, fun k hk => by rw [hwords k hk, palF_getD _ _ hk], hends⟩

end Sys2Proof.Machine
end

section
/-! PROOFS. The comparisons of 00_scope.md R14 and the clamp (42_encoder.md R163). A comparison holds exactly when neither
operand is a NaN and the values compare (`fle_iff`, `flt_iff`, `feq_iff`); the domain is then an interval of finite values
(`between_iff`), and the clamp puts every word into it and keeps the order of what it is given. -/

namespace Sys2Proof.Machine

/-! ### Comparisons -/

theorem fle_iff {a b : Word} : fle a b = true ↔ fisNaN a = false ∧ fisNaN b = false ∧ funits a ≤ funits b := by
  simp [fle, and_assoc]

theorem flt_iff {a b : Word} : flt a b = true ↔ fisNaN a = false ∧ fisNaN b = false ∧ funits a < funits b := by
  simp [flt, and_assoc]

theorem feq_iff {a b : Word} : feq a b = true ↔ fisNaN a = false ∧ fisNaN b = false ∧ funits a = funits b := by
  simp [feq, and_assoc]

theorem fgt_iff {a b : Word} : fgt a b = true ↔ fisNaN a = false ∧ fisNaN b = false ∧ funits b < funits a := by
  rw [fgt, flt_iff]
  exact and_left_comm

section
variable {a b : Word} (ha : fisNaN a = false) (hb : fisNaN b = false)
include ha hb

theorem fle_iff_units : fle a b = true ↔ funits a ≤ funits b := by simp [fle_iff, ha, hb]

theorem flt_iff_units : flt a b = true ↔ funits a < funits b := by simp [flt_iff, ha, hb]

theorem fgt_iff_units : fgt a b = true ↔ funits b < funits a := by simp [fgt_iff, ha, hb]

theorem flt_eq_false_iff_units : flt a b = false ↔ funits b ≤ funits a := by
  rw [← Bool.not_eq_true, flt_iff_units ha hb, not_lt]

theorem fle_eq_false_iff_units : fle a b = false ↔ funits b < funits a := by
  rw [← Bool.not_eq_true, fle_iff_units ha hb, not_le]

end

theorem fmag_of_fisInf {a : Word} (h : fisInf a = true) : fmag a = 2 ^ 277 := by
  rw [fmag_eq_magUnits, (fisInf_iff a).1 h]
  decide +kernel

/-- A word is finite, an infinity or a NaN. -/
theorem fisFinite_or_fisInf {a : Word} (h : fisNaN a = false) : fisFinite a = true ∨ fisInf a = true := by
  rw [← Bool.not_eq_true, fisNaN_iff] at h
  rw [fisFinite_iff, fisInf_iff]
  omega

/-- A magnitude well below the infinities' is finite. -/
theorem fisFinite_of_abs_le {a : Word} (hnan : fisNaN a = false) (h : |funits a| ≤ 2 ^ 256) : fisFinite a = true := by
  refine (fisFinite_or_fisInf hnan).resolve_right fun hinf => ?_
  rw [Int.abs_eq_natAbs, natAbs_funits, fmag_of_fisInf hinf, Nat.cast_pow, Nat.cast_ofNat] at h
  exact not_le.2 (pow_lt_pow_right₀ one_lt_two (by norm_num)) h

/-! ### Signs -/

theorem magBits_fabs (a : Word) : magBits (fabs a) = magBits a := by
  unfold magBits fabs
  rw [BitVec.toNat_and]
  exact (congrArg (· % 2 ^ 31) (Nat.and_two_pow_sub_one_eq_mod a.toNat 31)).trans (Nat.mod_mod _ _)

theorem fsign_fabs (a : Word) : fsign (fabs a) = false := by
  have hmask : (0x7FFFFFFF : Word).getLsbD 31 = false := by decide
  rw [fsign, fabs, BitVec.getLsbD_and, hmask, Bool.and_false]

theorem fisNaN_fabs (a : Word) : fisNaN (fabs a) = fisNaN a := by
  rw [Bool.eq_iff_iff, fisNaN_iff, fisNaN_iff, magBits_fabs]

theorem funits_fabs (a : Word) : funits (fabs a) = (funits a).natAbs := by
  rw [funits, fsign_fabs, natAbs_funits, fmag_eq_magUnits, fmag_eq_magUnits, magBits_fabs]
  rfl

theorem magBits_fneg (a : Word) : magBits (fneg a) = magBits a := by
  have hmask : (0x80000000 : Word).toNat % 2 ^ 31 = 0 := by decide
  rw [magBits, fneg, BitVec.toNat_xor, Nat.xor_mod_two_pow, hmask, Nat.xor_zero]
  rfl

theorem fsign_fneg (a : Word) : fsign (fneg a) = !fsign a := by
  have hmask : (0x80000000 : Word).getLsbD 31 = true := by decide
  rw [fsign, fneg, BitVec.getLsbD_xor, hmask, Bool.xor_true]
  rfl

theorem fisFinite_fneg (a : Word) : fisFinite (fneg a) = fisFinite a := by
  rw [Bool.eq_iff_iff, fisFinite_iff, fisFinite_iff, magBits_fneg]

theorem funits_fneg (a : Word) : funits (fneg a) = -funits a := by
  rw [funits, funits, fsign_fneg, fmag_eq_magUnits, magBits_fneg, ← fmag_eq_magUnits]
  cases fsign a <;> simp

/-! ### The domain and the clamp -/

theorem domLo_finite (ch : Channel) : fisFinite (domLo ch) = true := (domLo_between ch).finite

theorem domHi_finite : fisFinite domHi = true := by decide

theorem domLo_notNaN (ch : Channel) : fisNaN (domLo ch) = false := fisNaN_of_finite (domLo_finite ch)

theorem domHi_notNaN : fisNaN domHi = false := fisNaN_of_finite domHi_finite

theorem funits_domLo_lt_domHi (ch : Channel) : funits (domLo ch) < funits domHi := by
  rw [funits_domLo, funits_domHi]
  cases ch <;> decide

/-- The domain of a format, in the terms of its bounds (42_encoder.md R161). -/
theorem between_iff {ch : Channel} {w : Word} :
    Between (domLoInt ch) 1 w ↔ fle (domLo ch) w = true ∧ fle w domHi = true := by
  constructor
  · rintro ⟨hfin, hge, hle⟩
    rw [fle_iff_of_finite (domLo_finite ch) hfin, fle_iff_of_finite hfin domHi_finite, funits_domLo, funits_domHi]
    exact ⟨hge, by simpa using hle⟩
  · rintro ⟨hlo, hhi⟩
    obtain ⟨-, hnan, hge⟩ := fle_iff.1 hlo
    obtain ⟨-, -, hle⟩ := fle_iff.1 hhi
    rw [funits_domLo] at hge
    rw [funits_domHi] at hle
    refine ⟨fisFinite_of_abs_le hnan (abs_le.2 ?_), hge, by simpa using hle⟩
    rcases domLoInt_cases ch with h | h <;> rw [h] at hge <;> omega

theorem between_domain_notNaN {ch : Channel} {w : Word} (h : Between (domLoInt ch) 1 w) : fisNaN w = false :=
  fisNaN_of_finite h.finite

theorem clampTo_of_not_ge {v lo hi : Word} (h : fle lo v = false) : clampTo v lo hi = lo := by
  simp [clampTo, fge, h]

theorem clampTo_of_gt {v lo hi : Word} (hlo : fle lo v = true) (hhi : flt hi v = true) : clampTo v lo hi = hi := by
  simp [clampTo, fge, fgt, hlo, hhi]

theorem clampTo_of_mem {v lo hi : Word} (hlo : fle lo v = true) (hhi : flt hi v = false) : clampTo v lo hi = v := by
  simp [clampTo, fge, fgt, hlo, hhi]

/-- The clamped value is in the domain (42_encoder.md R163). -/
theorem clampTo_between (ch : Channel) (v : Word) : Between (domLoInt ch) 1 (clampTo v (domLo ch) domHi) := by
  cases hlo : fle (domLo ch) v with
  | false => rw [clampTo_of_not_ge hlo]; exact domLo_between ch
  | true =>
    cases hhi : flt domHi v with
    | true => rw [clampTo_of_gt hlo hhi]; exact domHi_between ch
    | false =>
      rw [clampTo_of_mem hlo hhi, between_iff]
      obtain ⟨-, hnan, -⟩ := fle_iff.1 hlo
      exact ⟨hlo, (fle_iff_units hnan domHi_notNaN).2 ((flt_eq_false_iff_units domHi_notNaN hnan).1 hhi)⟩

/-- Clamping a number takes the nearer of its value and the domain's bounds. -/
theorem funits_clampTo {ch : Channel} {v : Word} (hnan : fisNaN v = false) :
    funits (clampTo v (domLo ch) domHi) = max (funits (domLo ch)) (min (funits v) (funits domHi)) := by
  have hdom := funits_domLo_lt_domHi ch
  cases hlo : fle (domLo ch) v with
  | false =>
    rw [clampTo_of_not_ge hlo]
    rw [fle_eq_false_iff_units (domLo_notNaN ch) hnan] at hlo
    omega
  | true =>
    have hge := (fle_iff_units (domLo_notNaN ch) hnan).1 hlo
    cases hhi : flt domHi v with
    | true =>
      rw [clampTo_of_gt hlo hhi]
      rw [flt_iff_units domHi_notNaN hnan] at hhi
      omega
    | false =>
      rw [clampTo_of_mem hlo hhi]
      rw [flt_eq_false_iff_units domHi_notNaN hnan] at hhi
      omega

theorem funits_clampTo_mono {ch : Channel} {v w : Word} (hv : fisNaN v = false) (hw : fisNaN w = false)
    (h : funits v ≤ funits w) : funits (clampTo v (domLo ch) domHi) ≤ funits (clampTo w (domLo ch) domHi) := by
  rw [funits_clampTo hv, funits_clampTo hw]
  omega

/-- Settles O40 (42_encoder.md R163): the three branches of the clamp, and the comparisons that choose among them. -/
theorem clampIntoDomain : Obligations.ClampIntoDomain := by
  intro ch v
  refine ⟨between_iff.1 (clampTo_between ch v), ?inside, ?nan, ?below, ?above, ?_, ?_, ?_⟩
  case inside =>
    intro hlo hhi
    obtain ⟨hnan, -, hle⟩ := fle_iff.1 hhi
    exact clampTo_of_mem hlo ((flt_eq_false_iff_units domHi_notNaN hnan).2 hle)
  case nan =>
    intro hnan
    exact clampTo_of_not_ge (by simp [fle, hnan])
  case below =>
    intro hlt
    obtain ⟨hnan, -, hunits⟩ := flt_iff.1 hlt
    exact clampTo_of_not_ge ((fle_eq_false_iff_units (domLo_notNaN ch) hnan).2 hunits)
  case above =>
    intro hlt
    obtain ⟨-, hnan, hunits⟩ := flt_iff.1 hlt
    exact clampTo_of_gt
      ((fle_iff_units (domLo_notNaN ch) hnan).2 ((funits_domLo_lt_domHi ch).trans hunits).le) hlt
  all_goals cases ch <;> decide +kernel

/-- Settles O39 (42_encoder.md R170): each constant is the rounding of its rational, by evaluation. -/
theorem gridConstantsNearest : Obligations.GridConstantsNearest := by
  have hC8 : gridC .eight = (List.range 8).map (fun k => fratio (7 - k) 7) := by decide
  have hD8 : gridD .eight = (List.range 8).map (fun k => fratio k 7) := by decide
  have hC6 : gridC .six = (List.range 6).map (fun k => fratio (5 - k) 5) := by decide
  have hD6 : gridD .six = (List.range 6).map (fun k => fratio k 5) := by decide
  exact ⟨hC8, hD8, hC6, hD6, rfl, rfl, rfl, rfl⟩

end Sys2Proof.Machine
end

section
/-! PROOFS. The scans of the encoder (42_encoder.md R164, R165, R168, R180). Each walks a list and keeps the best entry so
far, which only a strictly better one replaces; so at every point it holds the first least entry of those it has seen
(`FirstLeast`), the maximum being the least for the opposite order. -/

namespace Sys2Proof.Machine

/-! ### The first least entry -/

/-- `best` is the first of the least entries below `k`. -/
structure FirstLeast (key : Nat → Int) (k best : Nat) : Prop where
  lt : best < k
  le : ∀ j < k, key best ≤ key j
  first : ∀ j < best, key best < key j

theorem FirstLeast.one (key : Nat → Int) : FirstLeast key 1 0 :=
  ⟨one_pos, fun j hj => by rw [Nat.lt_one_iff.1 hj], fun _ hj => absurd hj (Nat.not_lt_zero _)⟩

/-- A new entry that is not strictly less leaves the best one. -/
theorem FirstLeast.keep {key : Nat → Int} {k best : Nat} (h : FirstLeast key k best) (hk : ¬ key k < key best) :
    FirstLeast key (k + 1) best := by
  refine ⟨Nat.lt_succ_of_lt h.lt, fun j hj => ?_, h.first⟩
  rcases Nat.lt_succ_iff_lt_or_eq.1 hj with hlt | rfl
  · exact h.le j hlt
  · exact not_lt.1 hk

/-- A new entry that is strictly less is the first least one. -/
theorem FirstLeast.replace {key : Nat → Int} {k best : Nat} (h : FirstLeast key k best) (hk : key k < key best) :
    FirstLeast key (k + 1) k := by
  refine ⟨Nat.lt_succ_self k, fun j hj => ?_, fun j hj => hk.trans_le (h.le j hj)⟩
  rcases Nat.lt_succ_iff_lt_or_eq.1 hj with hlt | rfl
  · exact hk.le.trans (h.le j hlt)
  · exact le_refl _

/-- What is left of a list from `k` on, when it is not empty. -/
theorem getD_of_drop_eq_cons {l es : List Word} {k : Nat} {e : Word} (h : l.drop k = e :: es) :
    k < l.length ∧ l.getD k 0 = e ∧ l.drop (k + 1) = es := by
  have hk : k < l.length := by
    by_contra hge
    rw [List.drop_eq_nil_of_le (not_lt.1 hge)] at h
    cases h
  rw [List.drop_eq_getElem_cons hk, List.cons.injEq] at h
  exact ⟨hk, by rw [List.getD_eq_getElem _ _ hk, h.1], h.2⟩

/-! ### The least and the greatest of a list -/

/-- The scan of `foldMin` and of `foldMax`, over the comparison by which an entry is better. -/
def foldBest (better : Word → Word → Bool) (m : Word) : List Word → Word
  | [] => m
  | p :: ps => foldBest better (if better p m then p else m) ps

theorem foldMin_eq_foldBest (m : Word) (ps : List Word) : foldMin m ps = foldBest flt m ps := by
  induction ps generalizing m with
  | nil => rfl
  | cons p ps ih => exact ih _

theorem foldMax_eq_foldBest (m : Word) (ps : List Word) : foldMax m ps = foldBest fgt m ps := by
  induction ps generalizing m with
  | nil => rfl
  | cons p ps ih => exact ih _

/-- The scan from entry `k` of `l` on, with the best entry before it. -/
theorem foldBest_firstLeast {better : Word → Word → Bool} {key : Word → Int} {l : List Word}
    (hbetter : ∀ a ∈ l, ∀ b ∈ l, better a b = true ↔ key a < key b) {es : List Word} {k best : Nat}
    (hes : l.drop k = es) (hk : k ≤ l.length) (h : FirstLeast (fun j => key (l.getD j 0)) k best) :
    ∃ r, foldBest better (l.getD best 0) es = l.getD r 0 ∧ FirstLeast (fun j => key (l.getD j 0)) l.length r := by
  induction es generalizing k best with
  | nil => exact ⟨best, rfl, (hk.antisymm (List.drop_eq_nil_iff.1 hes)) ▸ h⟩
  | cons e es ih =>
    obtain ⟨hlt, he, hrest⟩ := getD_of_drop_eq_cons hes
    have hmem {j : Nat} (hj : j < l.length) : l.getD j 0 ∈ l := by
      rw [List.getD_eq_getElem _ _ hj]; exact List.getElem_mem hj
    have hcmp := hbetter _ (hmem hlt) _ (hmem (h.lt.trans_le hk))
    rw [foldBest, ← he]
    split
    · next hbest => exact ih hrest hlt (h.replace (hcmp.1 hbest))
    · next hbest => exact ih hrest hlt (h.keep (mt hcmp.2 hbest))

section
variable {m : Word} {ps : List Word} (hnan : ∀ v ∈ m :: ps, fisNaN v = false)
include hnan

theorem foldMin_firstLeast : ∃ r, foldMin m ps = (m :: ps).getD r 0 ∧
    FirstLeast (fun j => funits ((m :: ps).getD j 0)) (m :: ps).length r := by
  rw [foldMin_eq_foldBest]
  exact foldBest_firstLeast (key := funits) (fun a ha b hb => flt_iff_units (hnan a ha) (hnan b hb)) rfl
    (Nat.succ_le_succ (Nat.zero_le _)) (FirstLeast.one _)

theorem foldMax_firstLeast : ∃ r, foldMax m ps = (m :: ps).getD r 0 ∧
    FirstLeast (fun j => -funits ((m :: ps).getD j 0)) (m :: ps).length r := by
  rw [foldMax_eq_foldBest]
  exact foldBest_firstLeast (key := fun w => -funits w)
    (fun a ha b hb => (fgt_iff_units (hnan a ha) (hnan b hb)).trans neg_lt_neg_iff.symm) rfl
    (Nat.succ_le_succ (Nat.zero_le _)) (FirstLeast.one _)

theorem foldMin_mem_and_le : foldMin m ps ∈ m :: ps ∧ ∀ v ∈ m :: ps, funits (foldMin m ps) ≤ funits v := by
  obtain ⟨r, hr, hleast⟩ := foldMin_firstLeast hnan
  rw [hr, List.getD_eq_getElem _ _ hleast.lt]
  refine ⟨List.getElem_mem _, fun v hv => ?_⟩
  obtain ⟨j, hj, rfl⟩ := List.getElem_of_mem hv
  simpa only [List.getD_eq_getElem _ _ hleast.lt, List.getD_eq_getElem _ _ hj] using hleast.le j hj

theorem foldMax_mem_and_ge : foldMax m ps ∈ m :: ps ∧ ∀ v ∈ m :: ps, funits v ≤ funits (foldMax m ps) := by
  obtain ⟨r, hr, hleast⟩ := foldMax_firstLeast hnan
  rw [hr, List.getD_eq_getElem _ _ hleast.lt]
  refine ⟨List.getElem_mem _, fun v hv => ?_⟩
  obtain ⟨j, hj, rfl⟩ := List.getElem_of_mem hv
  simpa only [List.getD_eq_getElem _ _ hleast.lt, List.getD_eq_getElem _ _ hj] using neg_le_neg_iff.1 (hleast.le j hj)

end

/-! ### ScanMinMax and the mode -/

theorem scanMinMax_mem_between {ch : Channel} {sc : Scratch} {v : Word} (h : v ∈ (scanMinMax ch sc).samples) :
    Between (domLoInt ch) 1 v := by
  obtain ⟨p, -, rfl⟩ := List.mem_map.1 h
  exact clampTo_between ch p

/-- ScanMinMax on at least one sample: MIN and MAX are the scans of the clamped ones. -/
theorem scanMinMax_eq_folds (ch : Channel) {sc : Scratch} (h : sc.samples ≠ []) :
    ∃ p ps, (scanMinMax ch sc).samples = p :: ps ∧ (scanMinMax ch sc).min = foldMin p ps ∧
      (scanMinMax ch sc).max = foldMax p ps ∧ ∀ v ∈ p :: ps, fisNaN v = false := by
  obtain ⟨q, qs, hq⟩ := List.exists_cons_of_ne_nil h
  have hsamples : (scanMinMax ch sc).samples =
      clampTo q (domLo ch) domHi :: qs.map (fun v => clampTo v (domLo ch) domHi) := by
    rw [scanMinMax_samples, hq, List.map_cons]
  refine ⟨_, _, hsamples, by simp [scanMinMax, hq], by simp [scanMinMax, hq], fun v hv => ?_⟩
  exact between_domain_notNaN (scanMinMax_mem_between (hsamples ▸ hv))

theorem ne_nil_of_length_sixteen {l : List Word} (h : l.length = 16) : l ≠ [] := by
  rintro rfl
  cases h

/-- MIN and MAX are samples, and no sample is outside them. -/
theorem scanMinMax_bounds (ch : Channel) {sc : Scratch} (h : sc.samples ≠ []) :
    (scanMinMax ch sc).min ∈ (scanMinMax ch sc).samples ∧ (scanMinMax ch sc).max ∈ (scanMinMax ch sc).samples ∧
      ∀ v ∈ (scanMinMax ch sc).samples,
        funits (scanMinMax ch sc).min ≤ funits v ∧ funits v ≤ funits (scanMinMax ch sc).max := by
  obtain ⟨p, ps, hsamples, hmin, hmax, hnan⟩ := scanMinMax_eq_folds ch h
  rw [hsamples, hmin, hmax]
  obtain ⟨hminMem, hminLe⟩ := foldMin_mem_and_le hnan
  obtain ⟨hmaxMem, hmaxGe⟩ := foldMax_mem_and_ge hnan
  exact ⟨hminMem, hmaxMem, fun v hv => ⟨hminLe v hv, hmaxGe v hv⟩⟩

/-- Settles O41 (42_encoder.md R164). -/
theorem scanFindsFirstMinAndMax : Obligations.ScanFindsFirstMinAndMax := by
  intro ch sc hlen
  have hlen' : (scanMinMax ch sc).samples.length = 16 := by rw [scanMinMax_samples, List.length_map, hlen]
  have hclamped (i : Nat) (hi : i < 16) :
      (scanMinMax ch sc).samples.getD i 0 = clampTo (sc.samples.getD i 0) (domLo ch) domHi := by
    rw [scanMinMax_samples, List.getD_eq_getElem _ _ (by rwa [List.length_map, hlen]), List.getElem_map,
      List.getD_eq_getElem _ _ (by rwa [hlen])]
  have hnan (j : Nat) (hj : j < 16) : fisNaN ((scanMinMax ch sc).samples.getD j 0) = false := by
    rw [hclamped j hj]
    exact between_domain_notNaN (clampTo_between ch _)
  refine ⟨hclamped, ?_⟩
  obtain ⟨p, ps, hsamples, hmin, hmax, hnans⟩ := scanMinMax_eq_folds ch (ne_nil_of_length_sixteen hlen)
  obtain ⟨r, hr, hlt, hle, hfirst⟩ := foldMin_firstLeast hnans
  obtain ⟨t, ht, hlt', hge, hfirst'⟩ := foldMax_firstLeast hnans
  rw [← hsamples, hlen'] at hlt hle hlt' hge
  rw [← hsamples] at hr hfirst ht hfirst'
  rw [hmin, hmax, hr, ht]
  refine ⟨⟨r, hlt, rfl, fun j hj => ?_, fun j hj => ?_⟩, ⟨t, hlt', rfl, fun j hj => ?_, fun j hj => ?_⟩⟩
  · exact (fle_iff_units (hnan r hlt) (hnan j hj)).2 (hle j hj)
  · exact (flt_iff_units (hnan r hlt) (hnan j (hj.trans hlt))).2 (hfirst j hj)
  · exact (fle_iff_units (hnan j hj) (hnan t hlt')).2 (neg_le_neg_iff.1 (hge j hj))
  · exact (flt_iff_units (hnan j (hj.trans hlt')) (hnan t hlt')).2 (neg_lt_neg_iff.1 (hfirst' j hj))

theorem chooseScheme_has (ch : Channel) (sc : Scratch) :
    (chooseScheme ch sc).has = (feq sc.min (domLo ch) || feq sc.max domHi) := rfl

theorem chooseScheme_n (ch : Channel) (sc : Scratch) :
    (chooseScheme ch sc).n = if (chooseScheme ch sc).has then .six else .eight := rfl

/-- Settles O42 (42_encoder.md R165, R166): a sample at a bound of the domain is MIN or MAX, since all are inside. -/
theorem sixPointModeIffExtremePresent : Obligations.SixPointModeIffExtremePresent := by
  intro ch sc hlen
  obtain ⟨hmin, hmax, hall⟩ := scanMinMax_bounds ch (ne_nil_of_length_sixteen hlen)
  have hdom {v : Word} (hv : v ∈ (scanMinMax ch sc).samples) :
      fisNaN v = false ∧ funits (domLo ch) ≤ funits v ∧ funits v ≤ funits domHi := by
    obtain ⟨hlo, hhi⟩ := between_iff.1 (scanMinMax_mem_between hv)
    exact ⟨(fle_iff.1 hhi).1, (fle_iff.1 hlo).2.2, (fle_iff.1 hhi).2.2⟩
  constructor
  · rw [chooseScheme_has, Bool.or_eq_true]
    constructor
    · rintro (h | h)
      · exact ⟨_, hmin, .inl h⟩
      · exact ⟨_, hmax, .inr h⟩
    · rintro ⟨v, hv, h | h⟩
      · refine .inl (feq_iff.2 ⟨(hdom hmin).1, domLo_notNaN ch, ?_⟩)
        exact le_antisymm ((hall v hv).1.trans (feq_iff.1 h).2.2.le) (hdom hmin).2.1
      · refine .inr (feq_iff.2 ⟨(hdom hmax).1, domHi_notNaN, ?_⟩)
        exact le_antisymm (hdom hmax).2.2 ((feq_iff.1 h).2.2.symm.le.trans (hall v hv).2)
  · rw [chooseScheme_n]
    cases (chooseScheme ch (scanMinMax ch sc)).has <;> simp

/-! ### The initial bracket -/

theorem initialBracket_eight {ch : Channel} {sc : Scratch} (h : sc.n = .eight) :
    (initialBracket ch sc).x = sc.min ∧ (initialBracket ch sc).y = sc.max := by
  simp [initialBracket, h]

theorem initialBracket_six {ch : Channel} {sc : Scratch} (h : sc.n = .six) :
    (initialBracket ch sc).x = (bracketSix ch sc.samples).1 ∧
      (initialBracket ch sc).y = (bracketSix ch sc.samples).2 := by
  simp [initialBracket, h]

theorem isInner_iff {ch : Channel} {p : Word} : isInner ch p = true ↔
    fisNaN p = false ∧ funits (domLo ch) < funits p ∧ funits p < funits domHi := by
  rw [isInner, Bool.and_eq_true, fgt_iff, flt_iff]
  simp only [domLo_notNaN, domHi_notNaN]
  tauto

theorem bracketSix_of_no_inner {ch : Channel} {samples : List Word} (h : ∀ v ∈ samples, isInner ch v = false) :
    bracketSix ch samples = (domHi, domHi) := by
  have hinner : samples.filter (isInner ch) = [] := List.filter_eq_nil_iff.2 fun v hv => by simp [h v hv]
  simp [bracketSix, hinner]

/-- The scans start at the domain's bounds, which every inner sample replaces (42_encoder.md R168). -/
theorem bracketSix_spec {ch : Channel} {samples : List Word} {v : Word} (hv : v ∈ samples) (hin : isInner ch v = true) :
    ((bracketSix ch samples).1 ∈ samples ∧ isInner ch (bracketSix ch samples).1 = true) ∧
    ((bracketSix ch samples).2 ∈ samples ∧ isInner ch (bracketSix ch samples).2 = true) ∧
    ∀ w ∈ samples, isInner ch w = true →
      funits (bracketSix ch samples).1 ≤ funits w ∧ funits w ≤ funits (bracketSix ch samples).2 := by
  have hmem {w : Word} : w ∈ samples.filter (isInner ch) ↔ w ∈ samples ∧ isInner ch w = true := List.mem_filter
  have hinner : v ∈ samples.filter (isInner ch) := hmem.2 ⟨hv, hin⟩
  have hpair : bracketSix ch samples =
      (foldMin domHi (samples.filter (isInner ch)), foldMax (domLo ch) (samples.filter (isInner ch))) :=
    if_neg fun h => List.ne_nil_of_mem hinner (List.isEmpty_iff.1 h)
  rw [hpair]
  have hnan {m : Word} (hm : fisNaN m = false) : ∀ w ∈ m :: samples.filter (isInner ch), fisNaN w = false :=
    List.forall_mem_cons.2 ⟨hm, fun w hw => (isInner_iff.1 (hmem.1 hw).2).1⟩
  obtain ⟨hminMem, hminLe⟩ := foldMin_mem_and_le (hnan domHi_notNaN)
  obtain ⟨hmaxMem, hmaxGe⟩ := foldMax_mem_and_ge (hnan (domLo_notNaN ch))
  obtain ⟨-, hlo, hhi⟩ := isInner_iff.1 hin
  have hvMem {m : Word} : v ∈ m :: samples.filter (isInner ch) := List.mem_cons_of_mem _ hinner
  refine ⟨hmem.1 ((List.mem_cons.1 hminMem).resolve_left fun h => ?_),
    hmem.1 ((List.mem_cons.1 hmaxMem).resolve_left fun h => ?_), fun w hw hwin => ?_⟩
  · exact (hhi.trans_le ((congrArg funits h).ge.trans (hminLe v hvMem))).false
  · exact (((hmaxGe v hvMem).trans (congrArg funits h).le).trans_lt hlo).false
  · have hwMem := hmem.2 ⟨hw, hwin⟩
    exact ⟨hminLe w (List.mem_cons_of_mem _ hwMem), hmaxGe w (List.mem_cons_of_mem _ hwMem)⟩

/-- Settles O43 (42_encoder.md R167, R168). -/
theorem initialBracketSpansInnerSamples : Obligations.InitialBracketSpansInnerSamples := by
  intro ch sc
  refine ⟨initialBracket_eight, fun hn hnone => ?_, fun hn hsome => ?_⟩
  · obtain ⟨hx, hy⟩ := initialBracket_six (ch := ch) hn
    rw [hx, hy, bracketSix_of_no_inner hnone]
    exact ⟨rfl, rfl⟩
  · obtain ⟨v, hv, hin⟩ := hsome
    obtain ⟨hx, hy⟩ := initialBracket_six (ch := ch) hn
    obtain ⟨⟨hminMem, hminIn⟩, ⟨hmaxMem, hmaxIn⟩, hall⟩ := bracketSix_spec hv hin
    rw [hx, hy]
    refine ⟨hminMem, hminIn, hmaxMem, hmaxIn, fun w hw hwin => ?_⟩
    obtain ⟨hnan, -, -⟩ := isInner_iff.1 hwin
    obtain ⟨hle, hge⟩ := hall w hw hwin
    exact ⟨(fle_iff_units (isInner_iff.1 hminIn).1 hnan).2 hle, (fle_iff_units hnan (isInner_iff.1 hmaxIn).1).2 hge⟩

/-! ### FindClosest -/

theorem fisNaN_slotDist {e p : Word} (he : fisFinite e = true) (hp : fisFinite p = true) :
    fisNaN (slotDist e p) = false := by
  rw [slotDist, fisNaN_fabs, fsub, fadd_of_finite he ((fisFinite_fneg p).trans hp), fisNaN_roundWord]

/-- The scan from slot `k` on, with the best slot before it (42_encoder.md R180). -/
theorem closestFrom_firstLeast {pal : List Word} {p : Word} (hnan : ∀ e ∈ pal, fisNaN (slotDist e p) = false)
    {es : List Word} {k best : Nat} (hes : pal.drop k = es) (hk : k ≤ pal.length)
    (h : FirstLeast (fun j => funits (slotDist (pal.getD j 0) p)) k best) :
    FirstLeast (fun j => funits (slotDist (pal.getD j 0) p)) pal.length
      (closestFrom p es k best (slotDist (pal.getD best 0) p)) := by
  induction es generalizing k best with
  | nil => exact (hk.antisymm (List.drop_eq_nil_iff.1 hes)) ▸ h
  | cons e es ih =>
    obtain ⟨hlt, he, hrest⟩ := getD_of_drop_eq_cons hes
    have hnanAt {j : Nat} (hj : j < pal.length) : fisNaN (slotDist (pal.getD j 0) p) = false := by
      rw [List.getD_eq_getElem _ _ hj]; exact hnan _ (List.getElem_mem hj)
    have hcmp := flt_iff_units (hnanAt hlt) (hnanAt (h.lt.trans_le hk))
    rw [closestFrom, ← he]
    split
    · next hbest => exact ih hrest hlt (h.replace (hcmp.1 hbest))
    · next hbest => exact ih hrest hlt (h.keep (mt hcmp.2 hbest))

/-- Settles O49 (42_encoder.md R180): FindClosest is the scan of the distances. -/
theorem closestIsNearestLowest : Obligations.ClosestIsNearestLowest := by
  intro pal p hlen hpal hp
  have hnan : ∀ e ∈ pal, fisNaN (slotDist e p) = false := fun e he => fisNaN_slotDist (hpal e he) hp
  have hnanAt {j : Nat} (hj : j < 8) : fisNaN (slotDist (pal.getD j 0) p) = false := by
    rw [List.getD_eq_getElem _ _ (hlen ▸ hj)]
    exact hnan _ (List.getElem_mem _)
  have hscan : closest pal p = closestFrom p (pal.drop 1) 1 0 (slotDist (pal.getD 0 0) p) := by
    cases pal <;> rfl
  obtain ⟨hlt, hle, hfirst⟩ := closestFrom_firstLeast hnan rfl (by omega) (FirstLeast.one _)
  rw [← hscan, hlen] at hlt hle
  rw [← hscan] at hfirst
  refine ⟨hlt, fun j hj => ?_, fun j hj => ?_⟩
  · exact (fle_iff_units (hnanAt hlt) (hnanAt hj)).2 (hle j hj)
  · exact (flt_iff_units (hnanAt hlt) (hnanAt (hj.trans hlt))).2 (hfirst j hj)

end Sys2Proof.Machine
end

section
/-! PROOFS. Roundings of any size. On finite operands an operation's value is a fixed function of the exact value
(`roundUnits`), which does not decrease with it and leaves a word's own value as it is. So roundings keep order
(`Rounded.mono`), and keep every bound that is itself the value of a word (`Rounded.le`, `Rounded.ge`): small
multiples `j * 2^e` of powers of two are such bounds (`Bounded`). -/

namespace Sys2Proof.Machine

/-! ### The rounded value -/

/-- The value of the quotient `y / den` after its rounding, before any overflow. -/
def roundUnits (y : Int) (den : Nat) : Int := y.sign * magUnits (roundBits y.natAbs den)

theorem roundUnits_neg (y : Int) (den : Nat) : roundUnits (-y) den = -roundUnits y den := by
  rw [roundUnits, roundUnits, Int.sign_neg, Int.natAbs_neg, neg_mul]

section
variable {den : Nat} (hden : 0 < den)
include hden

theorem roundBits_mono {num num' : Nat} (h : num ≤ num') : roundBits num den ≤ roundBits num' den := by
  rcases h.eq_or_lt with rfl | hlt
  · exact le_refl _
  by_contra hcross
  have hunits := Nat.mul_lt_mul_of_pos_right (magUnits_strictMono (not_le.1 hcross)) hden
  have hnear := (roundBits_nearest num (roundBits num' den) hden).1
  have hnear' := (roundBits_nearest num' (roundBits num den) hden).1
  simp only [quotDist, ← Nat.cast_mul] at hnear hnear'
  omega

theorem roundUnits_of_nonneg {y : Int} (hy : 0 ≤ y) : roundUnits y den = magUnits (roundBits y.natAbs den) := by
  rcases hy.eq_or_lt with rfl | hpos
  · rw [roundUnits, Int.natAbs_zero, roundBits_exact hden (m := 0) (by rw [magUnits_zero, zero_mul]), magUnits_zero]
    rfl
  · rw [roundUnits, Int.sign_eq_one_of_pos hpos, one_mul]

theorem roundUnits_nonneg {y : Int} (hy : 0 ≤ y) : 0 ≤ roundUnits y den := by
  rw [roundUnits_of_nonneg hden hy]
  exact Int.natCast_nonneg _

/-- Rounding keeps order. -/
theorem roundUnits_mono {y y' : Int} (h : y ≤ y') : roundUnits y den ≤ roundUnits y' den := by
  have hpos {a b : Int} (ha : 0 ≤ a) (hab : a ≤ b) : roundUnits a den ≤ roundUnits b den := by
    rw [roundUnits_of_nonneg hden ha, roundUnits_of_nonneg hden (ha.trans hab), Nat.cast_le]
    exact magUnits_strictMono.monotone (roundBits_mono hden (by omega))
  rcases le_total 0 y with hy | hy
  · exact hpos hy h
  have hneg := roundUnits_nonneg hden (neg_nonneg.2 hy)
  rw [roundUnits_neg] at hneg
  rcases le_total 0 y' with hy' | hy'
  · have := roundUnits_nonneg hden hy'
    omega
  · have := hpos (neg_nonneg.2 hy') (neg_le_neg h)
    rw [roundUnits_neg, roundUnits_neg] at this
    omega

/-- A word's own value is not rounded. -/
theorem roundUnits_funits (c : Word) : roundUnits (funits c * den) den = funits c := by
  have hbits : roundBits (funits c * den).natAbs den = magBits c :=
    roundBits_exact hden (by rw [Int.natAbs_mul, natAbs_funits, fmag_eq_magUnits]; rfl)
  have hsign : (den : Int).sign = 1 := Int.sign_eq_one_of_pos (Int.natCast_pos.2 hden)
  rw [roundUnits, hbits, ← fmag_eq_magUnits, ← natAbs_funits, Int.sign_mul, hsign, mul_one, Int.sign_mul_natAbs]

theorem fisFinite_roundWord {neg : Bool} {num : Nat} (h : num ≤ 2 ^ 256 * den) :
    fisFinite (roundWord neg num den) = true := by
  have hbits : roundBits num den < 0x7F800000 := by
    rw [← not_le, le_roundBits_iff hden, not_le]
    exact h.trans_lt (Nat.mul_lt_mul_of_pos_right (by norm_num) hden)
  rw [fisFinite_iff, roundWord, magBits_fpack (roundMag_lt _ _), roundMag_eq_min]
  exact (min_le_right _ _).trans_lt hbits

theorem funits_roundWord {neg : Bool} {y : Int} (hsign : SignFits neg y)
    (hfin : fisFinite (roundWord neg y.natAbs den) = true) : funits (roundWord neg y.natAbs den) = roundUnits y den := by
  rw [funits, fsign_roundWord, (roundWord_of_finite hfin).2]
  cases neg with
  | false => rw [if_neg Bool.false_ne_true, roundUnits_of_nonneg hden hsign]
  | true =>
    have hneg := roundUnits_neg y den
    rw [roundUnits_of_nonneg hden (neg_nonneg.2 hsign), Int.natAbs_neg] at hneg
    rw [if_pos rfl, hneg, neg_neg]

end

/-! ### Rounded words -/

/-- The word `w` is finite and holds the quotient `y / den`, rounded. -/
structure Rounded (w : Word) (y : Int) (den : Nat) : Prop where
  pos : 0 < den
  finite : fisFinite w = true
  units : funits w = roundUnits y den

theorem Rounded.mono {w w' : Word} {y y' : Int} {den : Nat} (h : Rounded w y den) (h' : Rounded w' y' den)
    (hy : y ≤ y') : funits w ≤ funits w' := by
  rw [h.units, h'.units]
  exact roundUnits_mono h.pos hy

/-- A word's value that the exact one does not exceed is not exceeded by the rounded one. -/
theorem Rounded.le {w : Word} {y : Int} {den : Nat} (h : Rounded w y den) {c : Word} (hc : y ≤ funits c * den) :
    funits w ≤ funits c := by
  rw [h.units, ← roundUnits_funits h.pos c]
  exact roundUnits_mono h.pos hc

theorem Rounded.ge {w : Word} {y : Int} {den : Nat} (h : Rounded w y den) {c : Word} (hc : funits c * den ≤ y) :
    funits c ≤ funits w := by
  rw [h.units, ← roundUnits_funits h.pos c]
  exact roundUnits_mono h.pos hc

theorem roundWord_rounded {neg : Bool} {y : Int} {den : Nat} (hden : 0 < den) (hsign : SignFits neg y)
    (hy : |y| ≤ 2 ^ 256 * den) : Rounded (roundWord neg y.natAbs den) y den :=
  have hfin := fisFinite_roundWord (neg := neg) hden (num := y.natAbs) (by zify; exact hy)
  ⟨hden, hfin, funits_roundWord hden hsign hfin⟩

section
variable {a b : Word} (ha : fisFinite a = true) (hb : fisFinite b = true)
include ha hb

theorem fadd_rounded (h : |funits a + funits b| ≤ 2 ^ 256) : Rounded (fadd a b) (funits a + funits b) 1 := by
  rw [fadd_of_finite ha hb]
  exact roundWord_rounded one_pos (signFits_faddSign a b) (by simpa using h)

theorem fsub_rounded (h : |funits a - funits b| ≤ 2 ^ 256) : Rounded (fsub a b) (funits a - funits b) 1 := by
  rw [sub_eq_add_neg, ← funits_fneg] at h ⊢
  exact fadd_rounded ha ((fisFinite_fneg b).trans hb) h

theorem fmul_rounded (h : |funits a * funits b| ≤ 2 ^ 256 * (2 ^ 149 : Nat)) :
    Rounded (fmul a b) (funits a * funits b) (2 ^ 149) := by
  rw [fmul_of_finite ha hb]
  exact roundWord_rounded (Nat.two_pow_pos 149) ((signFits_funits a).mul (signFits_funits b)) h

theorem fdiv_rounded (hpos : 0 < funits b) (h : |funits a * 2 ^ 149| ≤ 2 ^ 256 * funits b) :
    Rounded (fdiv a b) (funits a * 2 ^ 149) (funits b).natAbs := by
  have hnum : fdivNum a b = funits a * 2 ^ 149 := by rw [fdivNum, Int.sign_eq_one_of_pos hpos, mul_one]
  have hsign := signFits_fdivNum a b
  rw [fdiv_of_finite ha hb hpos.ne', hnum]
  rw [hnum] at hsign
  exact roundWord_rounded (Int.natAbs_pos.2 hpos.ne') hsign (by rwa [Int.natAbs_of_nonneg hpos.le])

end

/-! ### Bounds that are values of words -/

/-- A higher exponent scales the magnitude. -/
theorem magUnits_add_exponent {m : Nat} (hm : 2 ^ 23 ≤ m) (e : Nat) :
    magUnits (m + e * 2 ^ 23) = magUnits m * 2 ^ e := by
  obtain ⟨k, r, rfl, hk, hr⟩ := exists_scaled m
  have hsplit : k * 2 ^ 23 + r + e * 2 ^ 23 = (k + e) * 2 ^ 23 + r := by ring
  rw [hsplit, magUnits_scaled (.inr (by omega)) hr.le, magUnits_scaled hk hr.le, pow_add, mul_assoc]

/-- A small multiple of a power of two is the value of a word: six bits of multiple and exponents up to 249 are all that
the encoder's bounds need. -/
theorem exists_funits_eq {j e : Nat} (hj : j ≤ 64) (he : e ≤ 100) :
    ∃ c : Word, funits c = (j : Int) * 2 ^ (149 + e) := by
  rcases Nat.eq_zero_or_pos j with rfl | hpos
  · exact ⟨f0, by rw [Nat.cast_zero, zero_mul]; decide⟩
  obtain ⟨m, -, hm⟩ := exists_magUnits_eq_integer (hj.trans (by norm_num))
  have hnormal : 2 ^ 23 ≤ m := by
    have hfirst : magUnits (2 ^ 23) = 2 ^ 23 := by decide +kernel
    rw [← magUnits_strictMono.le_iff_le, hm, hfirst]
    omega
  have hunits : magUnits (m + e * 2 ^ 23) = j * 2 ^ (149 + e) := by
    rw [magUnits_add_exponent hnormal, hm, mul_assoc, ← pow_add]
  have hlt : m + e * 2 ^ 23 < 2 ^ 31 := by
    have htop : magUnits 0x75000000 = 2 ^ 256 := by decide +kernel
    have hsmall : j * 2 ^ (149 + e) ≤ 2 ^ 256 :=
      (Nat.mul_le_mul hj (Nat.pow_le_pow_right two_pos (by omega : 149 + e ≤ 249))).trans (by norm_num)
    rw [← hunits, ← htop, magUnits_strictMono.le_iff_le] at hsmall
    omega
  refine ⟨fpack false (m + e * 2 ^ 23), ?_⟩
  rw [funits, fsign_fpack hlt, fmag_fpack hlt, hunits]
  push_cast
  rfl

/-- A finite value of magnitude at most `j * 2^e`. -/
structure Bounded (j e : Nat) (w : Word) : Prop where
  finite : fisFinite w = true
  abs_le : |funits w| ≤ (j : Int) * 2 ^ (149 + e)

theorem Bounded.mono {i j e f : Nat} {w : Word} (h : Bounded i e w) (hle : i * 2 ^ e ≤ j * 2 ^ f) : Bounded j f w := by
  refine ⟨h.finite, h.abs_le.trans ?_⟩
  have hscaled := Nat.mul_le_mul_right (2 ^ 149) hle
  zify at hscaled
  calc (i : Int) * 2 ^ (149 + e) = i * 2 ^ e * 2 ^ 149 := by ring
    _ ≤ j * 2 ^ f * 2 ^ 149 := hscaled
    _ = j * 2 ^ (149 + f) := by ring

theorem Bounded.mono_scale {j e f : Nat} {w : Word} (h : Bounded j e w) (hle : e ≤ f) : Bounded j f w :=
  h.mono (Nat.mul_le_mul_left j (Nat.pow_le_pow_right two_pos hle))

theorem bounded_f0 (e : Nat) : Bounded 0 e f0 := ⟨by decide, by rw [Nat.cast_zero, zero_mul]; decide⟩

theorem Between.bounded {lo : Int} (hlo : -1 ≤ lo) {w : Word} (h : Between lo 1 w) : Bounded 1 0 w := by
  obtain ⟨hfin, hge, hle⟩ := h
  exact ⟨hfin, abs_le.2 (by constructor <;> norm_num <;> omega)⟩

section
variable {j e : Nat} (hj : j ≤ 64) (he : e ≤ 100)
include hj he

theorem bound_lt_overflow : (j : Int) * 2 ^ (149 + e) ≤ 2 ^ 256 := by
  have hscale : (2 : Int) ^ (149 + e) ≤ 2 ^ 249 := pow_le_pow_right₀ (by norm_num) (by omega)
  calc (j : Int) * 2 ^ (149 + e) ≤ 64 * 2 ^ 249 := mul_le_mul (by exact_mod_cast hj) hscale (by positivity) (by norm_num)
    _ ≤ 2 ^ 256 := by norm_num

/-- Rounding keeps the bound, since the bound is itself a value of a word. -/
theorem Rounded.bounded {w : Word} {y : Int} {den : Nat} (h : Rounded w y den)
    (hy : |y| ≤ (j : Int) * 2 ^ (149 + e) * den) : Bounded j e w := by
  obtain ⟨c, hc⟩ := exists_funits_eq hj he
  rw [abs_le] at hy
  refine ⟨h.finite, abs_le.2 ⟨?_, ?_⟩⟩
  · rw [← hc, ← funits_fneg]
    exact h.ge (by rw [funits_fneg, hc, neg_mul]; exact hy.1)
  · rw [← hc]
    exact h.le (by rw [hc]; exact hy.2)

theorem Bounded.fadd {i k : Nat} {a b : Word} (ha : Bounded i e a) (hb : Bounded k e b) (hsum : i + k = j) :
    Bounded j e (fadd a b) := by
  have habs : |funits a + funits b| ≤ (j : Int) * 2 ^ (149 + e) := by
    refine (abs_add_le _ _).trans ((add_le_add ha.abs_le hb.abs_le).trans_eq ?_)
    rw [← hsum, Nat.cast_add, add_mul]
  exact (fadd_rounded ha.finite hb.finite (habs.trans (bound_lt_overflow hj he))).bounded hj he (by simpa using habs)

theorem Bounded.fsub {i k : Nat} {a b : Word} (ha : Bounded i e a) (hb : Bounded k e b) (hsum : i + k = j) :
    Bounded j e (fsub a b) :=
  ha.fadd hj he ⟨(fisFinite_fneg b).trans hb.finite, by rw [funits_fneg, abs_neg]; exact hb.abs_le⟩ hsum

/-- A product with a weight of at most 1. -/
theorem Bounded.fmul {c v : Word} (hv : Bounded j e v) (hc : Bounded 1 0 c) : Bounded j e (fmul c v) := by
  have habs : |funits c * funits v| ≤ (j : Int) * 2 ^ (149 + e) * (2 ^ 149 : Nat) := by
    rw [abs_mul, mul_comm]
    refine mul_le_mul hv.abs_le (hc.abs_le.trans_eq (by norm_num)) (abs_nonneg _) (by positivity)
  have hsmall := habs.trans (mul_le_mul_of_nonneg_right (bound_lt_overflow hj he) (Nat.cast_nonneg _))
  exact (fmul_rounded hc.finite hv.finite hsmall).bounded hj he habs

end

/-- A quotient by a value of at least `2^-s`. -/
theorem Bounded.fdiv {j e s : Nat} (hj : j ≤ 64) (he : e + s ≤ 100) {g c : Word} (hg : Bounded j e g)
    (hc : fisFinite c = true) (hlow : 2 ^ (149 - s) ≤ funits c) : Bounded j (e + s) (fdiv g c) := by
  have hpos : 0 < funits c := (pow_pos two_pos _).trans_le hlow
  have hpow : (2 : Int) ^ (149 + (e + s)) * 2 ^ (149 - s) = 2 ^ (149 + e) * 2 ^ 149 := by
    rw [← pow_add, ← pow_add]
    congr 1
    omega
  have habs : |funits g * 2 ^ 149| ≤ (j : Int) * 2 ^ (149 + (e + s)) * funits c :=
    calc |funits g * 2 ^ 149| = |funits g| * 2 ^ 149 := by rw [abs_mul, abs_of_pos (a := (2 : Int) ^ 149) (by positivity)]
      _ ≤ (j : Int) * 2 ^ (149 + e) * 2 ^ 149 := mul_le_mul_of_nonneg_right hg.abs_le (by positivity)
      _ = (j : Int) * 2 ^ (149 + (e + s)) * 2 ^ (149 - s) := by rw [mul_assoc, ← hpow, mul_assoc]
      _ ≤ (j : Int) * 2 ^ (149 + (e + s)) * funits c := mul_le_mul_of_nonneg_left hlow (by positivity)
  have hsmall := habs.trans (mul_le_mul_of_nonneg_right (bound_lt_overflow hj he) hpos.le)
  exact (fdiv_rounded hg.finite hc hpos hsmall).bounded hj he (by rwa [Int.natAbs_of_nonneg hpos.le])

end Sys2Proof.Machine
end

section
/-! PROOFS. The Newton loop (42_encoder.md R169 to R176): when it stops (`newtonLoop_runs`), what its body does, and that the
endpoints stay finite (R185). For the last: a curvature that is not zero is at least 2^-6, and the sums of 16 samples are at
most 48 times the endpoints' bound, whatever the steps assigned; so one body multiplies that bound by at most 2^12, and
eight by 2^96. -/

namespace Sys2Proof.Machine

/-! ### When the loop stops -/

/-- The loop from `sc`, which ended in `t`, ran its body `k` times of at most `m` (42_encoder.md R169, R176). -/
structure LoopRuns (ch : Channel) (m k : Nat) (sc t : Scratch) : Prop where
  le : k ≤ m
  result : t = (newtonBody ch)^[k] sc
  range : ∀ j < k, rangeStop ((newtonBody ch)^[j] sc) = false
  gradient : ∀ j, j + 1 < k → gradientStop (iterationSums ch ((newtonBody ch)^[j] sc)) = false
  stop : k = m ∨ rangeStop ((newtonBody ch)^[k] sc) = true ∨
    ∃ j, k = j + 1 ∧ gradientStop (iterationSums ch ((newtonBody ch)^[j] sc)) = true

/-- The run that stops before its first body. -/
theorem LoopRuns.zero {ch : Channel} {m : Nat} {sc : Scratch} (h : 0 = m ∨ rangeStop sc = true) :
    LoopRuns ch m 0 sc sc :=
  ⟨Nat.zero_le m, rfl, fun _ hj => absurd hj (Nat.not_lt_zero _), fun _ hj => absurd hj (Nat.not_lt_zero _),
    h.imp_right .inl⟩

/-- The run that stops after its first body. -/
theorem LoopRuns.one {ch : Channel} {m : Nat} {sc : Scratch} (hrange : rangeStop sc = false)
    (hgradient : gradientStop (iterationSums ch sc) = true) : LoopRuns ch (m + 1) 1 sc (newtonBody ch sc) := by
  refine ⟨Nat.succ_le_succ (Nat.zero_le m), rfl, fun j hj => ?_, fun _ hj => absurd hj (by omega),
    .inr (.inr ⟨0, rfl, hgradient⟩)⟩
  rw [Nat.lt_one_iff.1 hj]
  exact hrange

/-- One more body before a run of the loop. -/
theorem LoopRuns.cons {ch : Channel} {m k : Nat} {sc t : Scratch} (h : LoopRuns ch m k (newtonBody ch sc) t)
    (hrange : rangeStop sc = false) (hgradient : gradientStop (iterationSums ch sc) = false) :
    LoopRuns ch (m + 1) (k + 1) sc t := by
  refine ⟨Nat.succ_le_succ h.le, h.result, fun j hj => ?_, fun j hj => ?_, ?_⟩
  · cases j with
    | zero => exact hrange
    | succ j => exact h.range j (Nat.lt_of_succ_lt_succ hj)
  · cases j with
    | zero => exact hgradient
    | succ j => exact h.gradient j (Nat.lt_of_succ_lt_succ hj)
  · rcases h.stop with hk | hstop | ⟨j, hj, hstop⟩
    · exact .inl (congrArg _ hk)
    · exact .inr (.inl hstop)
    · exact .inr (.inr ⟨j + 1, congrArg _ hj, hstop⟩)

theorem newtonLoop_runs (ch : Channel) (m : Nat) (sc : Scratch) : ∃ k, LoopRuns ch m k sc (newtonLoop ch m sc) := by
  induction m generalizing sc with
  | zero => exact ⟨0, .zero (.inl rfl)⟩
  | succ m ih =>
    rw [newtonLoop_succ]
    cases hrange : rangeStop sc with
    | true => exact ⟨0, .zero (.inr hrange)⟩
    | false =>
      cases hgradient : gradientStop (iterationSums ch sc) with
      | true => exact ⟨1, .one hrange hgradient⟩
      | false =>
        obtain ⟨k, hruns⟩ := ih (newtonBody ch sc)
        exact ⟨k + 1, hruns.cons hrange hgradient⟩

theorem newtonBody_iterate_iter (ch : Channel) (k : Nat) (sc : Scratch) :
    ((newtonBody ch)^[k] sc).iter = sc.iter + k := by
  induction k with
  | zero => rfl
  | succ k ih => rw [Function.iterate_succ_apply', newtonBody, applySums_iter, ih, add_assoc]

/-- Settles O44 (42_encoder.md R169, R176), by induction on the loop's bound. -/
theorem newtonLoopStopsAsSpecified : Obligations.NewtonLoopStopsAsSpecified := by
  refine ⟨fun _ => Iff.rfl, fun _ => Bool.and_eq_true_iff, fun ch sc => ?_⟩
  obtain ⟨k, hle, hresult, hrange, hgradient, hstop⟩ := newtonLoop_runs ch newtonBound sc
  exact ⟨k, hle, hresult, by rw [hresult, newtonBody_iterate_iter], hrange, hgradient, hstop⟩

/-! ### The body, part by part -/

theorem gridC_length (n : Scheme) : (gridC n).length = n.numSteps := by cases n <;> rfl

/-- D_n is C_n reversed (42_encoder.md R170). -/
theorem gridD_eq_reverse (n : Scheme) : gridD n = (gridC n).reverse := by cases n <;> rfl

theorem gridD_length (n : Scheme) : (gridD n).length = n.numSteps := by
  rw [gridD_eq_reverse, List.length_reverse, gridC_length]

theorem gridSteps_getD (ch : Channel) {n : Scheme} (x y : Word) {k : Nat} (hk : k < n.numSteps) :
    (gridSteps ch n x y).getD k 0 = fadd (fmul ((gridC n).getD k 0) x) (fmul ((gridD n).getD k 0) y) := by
  have hC : k < (gridC n).length := by rwa [gridC_length]
  have hD : k < (gridD n).length := by rwa [gridD_length]
  have hzip : k < (List.zipWith (fun c d => fadd (fmul c x) (fmul d y)) (gridC n) (gridD n)).length := by
    rw [List.length_zipWith]
    exact lt_min hC hD
  unfold gridSteps
  rw [List.getD_append _ _ _ _ hzip, List.getD_eq_getElem _ _ hzip, List.getElem_zipWith,
    List.getD_eq_getElem _ _ hC, List.getD_eq_getElem _ _ hD]

theorem gridSteps_six_extremes (ch : Channel) (x y : Word) :
    (gridSteps ch .six x y).getD 6 0 = domLo ch ∧ (gridSteps ch .six x y).getD 7 0 = domHi := ⟨rfl, rfl⟩

/-- `f32(n-1)` of 42_encoder.md R171: 5.0 or 7.0. -/
theorem lastStep_eq (n : Scheme) : lastStep n = if n = .six then 0x40A00000 else 0x40E00000 := by cases n <;> decide

theorem lastStep_bounded (n : Scheme) : Bounded 7 0 (lastStep n) := by
  cases n <;> exact ⟨by decide, by rw [lastStep_eq]; decide +kernel⟩

theorem fdiv_of_fisInf {a b : Word} (ha : fisFinite a = true) (hb : fisInf b = true) :
    fdiv a b = fpack (fsign a != fsign b) 0 := by
  have hnan : fisNaN b = false := by
    rw [← Bool.not_eq_true, fisNaN_iff, (fisInf_iff b).1 hb]
    exact lt_irrefl _
  simp [fdiv, fisNaN_of_finite ha, fisInf_of_finite ha, hnan, hb]

/-- Where the range stop does not hold, the divisor is at least 2^-8 (42_encoder.md R171). -/
theorem gridScale_finite {n : Scheme} {x y : Word} (hnan : fisNaN (fsub y x) = false)
    (hrange : flt (fsub y x) f2m8 = false) : fisFinite (gridScale n x y) = true := by
  have hlast := lastStep_bounded n
  rw [gridScale]
  rcases fisFinite_or_fisInf hnan with hfin | hinf
  · have hlow : 2 ^ (149 - 8) ≤ funits (fsub y x) := by
      have hunits : funits f2m8 = 2 ^ (149 - 8) := by decide +kernel
      rw [← hunits]
      exact (flt_eq_false_iff_units hnan (by decide)).1 hrange
    exact (hlast.fdiv (by norm_num) (by norm_num) hfin hlow).finite
  · rw [fdiv_of_fisInf hlast.finite hinf]
    cases (fsign (lastStep n) != fsign (fsub y x)) <;> decide

theorem truncInt_eq_tdiv (a : Word) : truncInt a = (funits a).tdiv (2 ^ 149) := by
  have hmag : ((fmag a / 2 ^ 149 : Nat) : Int) = Int.tdiv (fmag a : Int) (2 ^ 149) := rfl
  rw [truncInt, funits, hmag]
  split
  · rw [Int.neg_tdiv]
  · rfl

theorem truncInt_mono {a b : Word} (h : funits a ≤ funits b) : truncInt a ≤ truncInt b := by
  rw [truncInt_eq_tdiv, truncInt_eq_tdiv]
  exact Int.tdiv_le_tdiv (by norm_num) h

/-- A `dot` strictly between 0 and n-1 rounds to a step below n (42_encoder.md R172). -/
theorem truncInt_dot_mem {n : Scheme} {dot : Word} (hnan : fisNaN dot = false) (hpos : fle dot f0 = false)
    (hlast : fge dot (lastStep n) = false) :
    0 ≤ truncInt (fadd dot fhalf) ∧ truncInt (fadd dot fhalf) < n.numSteps := by
  have hbound := lastStep_bounded n
  have hhalf : Bounded 1 0 fhalf := ⟨by decide, by decide +kernel⟩
  rw [fle_eq_false_iff_units hnan (by decide), show funits f0 = 0 by decide] at hpos
  rw [fge, fle_eq_false_iff_units (fisNaN_of_finite hbound.finite) hnan] at hlast
  have habs := abs_le.1 hbound.abs_le
  have hdot : Bounded 7 0 dot := by
    have hle : |funits dot| ≤ ((7 : Nat) : Int) * 2 ^ (149 + 0) := abs_le.2 (by omega)
    exact ⟨fisFinite_of_abs_le hnan (hle.trans (by norm_num)), hle⟩
  have hrounded {w : Word} (hw : Bounded 7 0 w) : Rounded (fadd w fhalf) (funits w + funits fhalf) 1 := by
    refine fadd_rounded hw.finite hhalf.finite ((abs_add_le _ _).trans ?_)
    exact (add_le_add hw.abs_le hhalf.abs_le).trans (by norm_num)
  have hlow : truncInt f0 ≤ truncInt (fadd dot fhalf) := by
    refine truncInt_mono ((hrounded hdot).ge ?_)
    rw [show funits f0 = 0 by decide, zero_mul, show funits fhalf = 2 ^ 148 by decide +kernel]
    omega
  have hhigh : truncInt (fadd dot fhalf) ≤ truncInt (fadd (lastStep n) fhalf) :=
    truncInt_mono ((hrounded hdot).mono (hrounded hbound) (by omega))
  refine ⟨hlow, hhigh.trans_lt ?_⟩
  cases n <;> decide +kernel

/-- The step of a sample by the three cases of 42_encoder.md R172. -/
theorem stepOfDot_cases (n : Scheme) (x y p dot : Word) :
    (fle dot f0 = true → stepOfDot n x y p dot = if n = .six ∧ fle p (fmul x fhalf) = true then 6 else 0) ∧
    (fle dot f0 = false → fge dot (lastStep n) = true →
      stepOfDot n x y p dot = if n = .six ∧ fge p (fmul (fadd y f1) fhalf) = true then 7 else n.numSteps - 1) ∧
    (fle dot f0 = false → fge dot (lastStep n) = false → fisNaN dot = false →
      (stepOfDot n x y p dot : Int) = truncInt (fadd dot fhalf) ∧ stepOfDot n x y p dot < n.numSteps) := by
  refine ⟨fun h => ?_, fun h h' => ?_, fun h h' hnan => ?_⟩
  · simp [stepOfDot, h]
  · simp [stepOfDot, h, h']
  · obtain ⟨hlow, hhigh⟩ := truncInt_dot_mem hnan h h'
    have hstep : stepOfDot n x y p dot = (truncInt (fadd dot fhalf)).toNat := by simp [stepOfDot, h, h']
    rw [hstep]
    omega

theorem accumulate_eq_foldl (n : Scheme) (x y scale : Word) (steps : List Word) (a : Sums) (ps : List Word) :
    accumulate n x y scale steps a ps =
      ps.foldl (fun a p => accumulateOne n steps a (assignStep n x y scale p) p) a := by
  induction ps generalizing a with
  | nil => rfl
  | cons p ps ih => exact ih _

/-- On the grid of `x` and `y`, one sample's part is the turn of 42_encoder.md R173. -/
theorem accumulateOne_gridSteps (ch : Channel) (n : Scheme) (x y : Word) (a : Sums) (k : Nat) (p : Word) :
    accumulateOne n (gridSteps ch n x y) a k p = sumsTurn n x y k a p := by
  unfold accumulateOne sumsTurn
  rcases Nat.lt_or_ge k n.numSteps with hk | hk
  · rw [if_pos hk, if_neg (by omega), gridSteps_getD ch x y hk, Sums.add]
  · rw [if_neg (by omega), if_pos hk]

theorem iterationSums_eq_foldl (ch : Channel) (sc : Scratch) :
    iterationSums ch sc = sc.samples.foldl
      (fun a p => sumsTurn sc.n sc.x sc.y (assignStep sc.n sc.x sc.y (gridScale sc.n sc.x sc.y) p) a p) Sums.zero := by
  simp only [iterationSums, accumulate_eq_foldl, accumulateOne_gridSteps]

theorem newtonBody_eq (ch : Channel) (sc : Scratch) {x y : Word}
    (hx : x = newtonUpdate sc.x (iterationSums ch sc).dX (iterationSums ch sc).d2X)
    (hy : y = newtonUpdate sc.y (iterationSums ch sc).dY (iterationSums ch sc).d2Y) :
    newtonBody ch sc = { sc with
      steps := gridSteps ch sc.n sc.x sc.y, iter := sc.iter + 1
      x := if fgt x y then y else x, y := if fgt x y then x else y } := by
  subst hx hy
  rfl

theorem fgt_asymm {x y : Word} (h : fgt x y = true) : fgt y x = false := by
  obtain ⟨hx, hy, hlt⟩ := fgt_iff.1 h
  rw [← Bool.not_eq_true, fgt_iff_units hy hx]
  exact hlt.not_gt

section
variable (ch : Channel) (sc : Scratch) {x y : Word}
  (hx : x = newtonUpdate sc.x (iterationSums ch sc).dX (iterationSums ch sc).d2X)
  (hy : y = newtonUpdate sc.y (iterationSums ch sc).dY (iterationSums ch sc).d2Y)
include hx hy

theorem newtonBody_of_ordered (h : fgt x y = false) : (newtonBody ch sc).x = x ∧ (newtonBody ch sc).y = y := by
  rw [newtonBody_eq ch sc hx hy]
  exact ⟨if_neg (Bool.eq_false_iff.1 h), if_neg (Bool.eq_false_iff.1 h)⟩

theorem newtonBody_of_crossed (h : fgt x y = true) : (newtonBody ch sc).x = y ∧ (newtonBody ch sc).y = x := by
  rw [newtonBody_eq ch sc hx hy]
  exact ⟨if_pos h, if_pos h⟩

end

/-- The swap of 42_encoder.md R175 leaves the endpoints in order. -/
theorem newtonBody_ordered (ch : Channel) (sc : Scratch) : fgt (newtonBody ch sc).x (newtonBody ch sc).y = false := by
  cases h : fgt (newtonUpdate sc.x (iterationSums ch sc).dX (iterationSums ch sc).d2X)
      (newtonUpdate sc.y (iterationSums ch sc).dY (iterationSums ch sc).d2Y) with
  | true =>
    obtain ⟨hx, hy⟩ := newtonBody_of_crossed ch sc rfl rfl h
    rw [hx, hy]
    exact fgt_asymm h
  | false =>
    obtain ⟨hx, hy⟩ := newtonBody_of_ordered ch sc rfl rfl h
    rwa [hx, hy]

/-- Settles O45 (42_encoder.md R171 to R175). -/
theorem updateGuardedAndOrdered : Obligations.UpdateGuardedAndOrdered := by
  refine ⟨fun ch n x y => ⟨gridSteps_length ch n x y, fun k hk => gridSteps_getD ch x y hk, ?extremes,
    gridScale_finite⟩, fun n x y p => ?step, iterationSums_eq_foldl, fun ch sc => ?body⟩
  case extremes =>
    rintro rfl
    rw [← domLo_eq]
    exact gridSteps_six_extremes ch x y
  case step =>
    rw [← lastStep_eq]
    exact stepOfDot_cases n x y p (stepDot (lastStep n) x y p)
  case body =>
    intro a x y t
    exact ⟨newtonBody_of_ordered ch sc rfl rfl, newtonBody_of_crossed ch sc rfl rfl, newtonBody_ordered ch sc, rfl⟩

/-! ### The sums are bounded -/

/-- The weights of both grids (42_encoder.md R170). -/
def gridWeights : List Word := gridC .eight ++ gridC .six

theorem gridC_subset (n : Scheme) : gridC n ⊆ gridWeights := by
  cases n with
  | eight => exact List.subset_append_left _ _
  | six => exact List.subset_append_right _ _

theorem gridC_getD_mem {n : Scheme} {k : Nat} (hk : k < n.numSteps) : (gridC n).getD k 0 ∈ gridWeights := by
  rw [List.getD_eq_getElem _ _ (hk.trans_eq (gridC_length n).symm)]
  exact gridC_subset n (List.getElem_mem _)

theorem gridD_getD_mem {n : Scheme} {k : Nat} (hk : k < n.numSteps) : (gridD n).getD k 0 ∈ gridWeights := by
  have hmem : (gridD n).getD k 0 ∈ gridD n := by
    rw [List.getD_eq_getElem _ _ (hk.trans_eq (gridD_length n).symm)]
    exact List.getElem_mem _
  rw [gridD_eq_reverse, List.mem_reverse, ← gridD_eq_reverse] at hmem
  exact gridC_subset n hmem

/-- A curvature, the sum of at most `k` squares of weights: zero, or at least 2^-6. -/
structure Curvature (k : Nat) (w : Word) : Prop where
  bounded : Bounded k 0 w
  gap : funits w = 0 ∨ 2 ^ 143 ≤ funits w

theorem curvature_zero : Curvature 0 f0 := ⟨bounded_f0 0, .inl (by decide)⟩

theorem weight_spec {c : Word} (hc : c ∈ gridWeights) : Bounded 1 0 c ∧ Curvature 1 (fmul c c) := by
  have hall : gridWeights.all (fun c => decide ((fisFinite c = true ∧ (funits c).natAbs ≤ 2 ^ 149) ∧
      (fisFinite (fmul c c) = true ∧ (funits (fmul c c)).natAbs ≤ 2 ^ 149) ∧
      (funits (fmul c c) = 0 ∨ 2 ^ 143 ≤ funits (fmul c c)))) = true := by decide +kernel
  obtain ⟨⟨hfin, habs⟩, ⟨hfinSq, habsSq⟩, hgap⟩ := of_decide_eq_true (List.all_eq_true.1 hall c hc)
  have hbounded {w : Word} (h : fisFinite w = true) (h' : (funits w).natAbs ≤ 2 ^ 149) : Bounded 1 0 w :=
    ⟨h, by rw [Int.abs_eq_natAbs, Nat.cast_one, one_mul]; exact_mod_cast h'⟩
  exact ⟨hbounded hfin habs, hbounded hfinSq habsSq, hgap⟩

theorem Curvature.fadd {i : Nat} {a b : Word} (hi : i < 64) (ha : Curvature i a) (hb : Curvature 1 b) :
    Curvature (i + 1) (fadd a b) := by
  refine ⟨ha.bounded.fadd (by omega) (by norm_num) hb.bounded rfl, ?_⟩
  have hadd : Rounded (Machine.fadd a b) (funits a + funits b) 1 := by
    refine fadd_rounded ha.bounded.finite hb.bounded.finite ((abs_add_le _ _).trans ?_)
    refine (add_le_add ha.bounded.abs_le hb.bounded.abs_le).trans ?_
    norm_num
    omega
  have hstep : funits f2m6 = 2 ^ 143 := by decide +kernel
  have hzero : funits f0 = 0 := by decide
  rcases eq_or_ne (funits a + funits b) 0 with hsum | hsum
  · refine .inl (le_antisymm ?_ ?_)
    · rw [← hzero]; exact hadd.le (by rw [hsum, hzero]; rfl)
    · rw [← hzero]; exact hadd.ge (by rw [hsum, hzero]; rfl)
  · have hlow : 2 ^ 143 ≤ funits a + funits b := by
      rcases ha.gap with h | h <;> rcases hb.gap with h' | h' <;> omega
    refine .inr ?_
    rw [← hstep]
    exact hadd.ge (by rw [hstep, Nat.cast_one, mul_one]; exact hlow)

/-- The sums over at most `k` samples, with endpoints of magnitude at most `2^e`: each sample adds a weight times a
difference of three values of that size. -/
structure SumsBounded (e k : Nat) (a : Sums) : Prop where
  dX : Bounded (3 * k) e a.dX
  dY : Bounded (3 * k) e a.dY
  d2X : Curvature k a.d2X
  d2Y : Curvature k a.d2Y

theorem SumsBounded.mono {e k : Nat} {a : Sums} (h : SumsBounded e k a) : SumsBounded e (k + 1) a := by
  have hgrad {w : Word} (hw : Bounded (3 * k) e w) : Bounded (3 * (k + 1)) e w :=
    hw.mono (Nat.mul_le_mul_right _ (by omega))
  have hcurv {w : Word} (hw : Curvature k w) : Curvature (k + 1) w :=
    ⟨hw.bounded.mono (Nat.mul_le_mul_right _ (by omega)), hw.gap⟩
  exact ⟨hgrad h.dX, hgrad h.dY, hcurv h.d2X, hcurv h.d2Y⟩

section
-- Endpoints of at most 2^84 leave room for one more body below the limit 2^100 of `Bounded.fdiv`.
variable {e : Nat} (he : e ≤ 84)
include he

theorem sumsTurn_bounded {n : Scheme} {x y p : Word} {step k : Nat} {a : Sums} (hk : k < 16) (hx : Bounded 1 e x)
    (hy : Bounded 1 e y) (hp : Bounded 1 0 p) (ha : SumsBounded e k a) :
    SumsBounded e (k + 1) (sumsTurn n x y step a p) := by
  unfold sumsTurn
  split
  · exact ha.mono
  · next hstep =>
    obtain ⟨hc, hcc⟩ := weight_spec (gridC_getD_mem (not_le.1 hstep))
    obtain ⟨hd, hdd⟩ := weight_spec (gridD_getD_mem (not_le.1 hstep))
    have hpe : Bounded 1 e p := hp.mono_scale (Nat.zero_le e)
    have hgrid := (hx.fmul (by norm_num) (by omega) hc).fadd (by norm_num) (by omega)
      (hy.fmul (by norm_num) (by omega) hd) (rfl : 1 + 1 = 2)
    have hdiff := hgrid.fsub (by norm_num) (by omega) hpe (rfl : 2 + 1 = 3)
    exact ⟨ha.dX.fadd (by omega) (by omega) (hdiff.fmul (by norm_num) (by omega) hc) rfl,
      ha.dY.fadd (by omega) (by omega) (hdiff.fmul (by norm_num) (by omega) hd) rfl,
      ha.d2X.fadd (by omega) hcc, ha.d2Y.fadd (by omega) hdd⟩

theorem foldl_sumsTurn_bounded {n : Scheme} {x y : Word} {steps : Word → Nat} (hx : Bounded 1 e x)
    (hy : Bounded 1 e y) {ps : List Word} (hps : ∀ p ∈ ps, Bounded 1 0 p) {k : Nat} (hk : k + ps.length ≤ 16) {a : Sums}
    (ha : SumsBounded e k a) : SumsBounded e (k + ps.length) (ps.foldl (fun a p => sumsTurn n x y (steps p) a p) a) := by
  induction ps generalizing a k with
  | nil => exact ha
  | cons p ps ih =>
    rw [List.length_cons] at hk ⊢
    obtain ⟨hp, hrest⟩ := List.forall_mem_cons.1 hps
    rw [List.foldl_cons, show k + (ps.length + 1) = k + 1 + ps.length by omega]
    exact ih hrest (by omega) (sumsTurn_bounded he (by omega) hx hy hp ha)

/-! ### The endpoints stay finite -/

/-- The update divides by a curvature of at least 2^-6 (42_encoder.md R174). -/
theorem newtonUpdate_bounded {v g c : Word} (hv : Bounded 1 e v) (hg : Bounded 48 e g) (hc : Curvature 16 c) :
    Bounded 1 (e + 12) (newtonUpdate v g c) := by
  unfold newtonUpdate
  split
  · next hpos =>
    have hlow : 2 ^ (149 - 6) ≤ funits c := by
      refine hc.gap.resolve_left fun hzero => ?_
      rw [fgt_iff, hzero, show funits f0 = 0 by decide] at hpos
      exact lt_irrefl _ hpos.2.2
    have hquot := hg.fdiv (by norm_num) (by omega) hc.bounded.finite hlow
    have hve : Bounded 1 (e + 6) v := hv.mono_scale (by omega)
    refine (hve.fsub (by norm_num) (by omega) hquot rfl).mono ?_
    rw [show 1 * 2 ^ (e + 12) = 1 * 2 ^ 6 * 2 ^ (e + 6) by ring]
    exact Nat.mul_le_mul_right (2 ^ (e + 6)) (by norm_num : 1 + 48 ≤ 1 * 2 ^ 6)
  · exact hv.mono_scale (by omega)

end

/-- Sixteen samples of magnitude at most 1, and endpoints of at most `2^e`. -/
structure SpanBounded (e : Nat) (sc : Scratch) : Prop where
  length : sc.samples.length = 16
  samples : ∀ p ∈ sc.samples, Bounded 1 0 p
  x : Bounded 1 e sc.x
  y : Bounded 1 e sc.y

theorem iterationSums_bounded {e : Nat} (he : e ≤ 84) (ch : Channel) {sc : Scratch} (h : SpanBounded e sc) :
    SumsBounded e 16 (iterationSums ch sc) := by
  have hzero : SumsBounded e 0 Sums.zero := ⟨bounded_f0 e, bounded_f0 e, curvature_zero, curvature_zero⟩
  have hsums := foldl_sumsTurn_bounded he (n := sc.n) (steps := assignStep sc.n sc.x sc.y (gridScale sc.n sc.x sc.y))
    h.x h.y h.samples (by rw [h.length]) hzero
  rwa [h.length, ← iterationSums_eq_foldl ch] at hsums

/-- One body (42_encoder.md R171 to R175) multiplies the endpoints' bound by at most 2^12. -/
theorem SpanBounded.newtonBody {e : Nat} (he : e ≤ 84) (ch : Channel) {sc : Scratch} (h : SpanBounded e sc) :
    SpanBounded (e + 12) (newtonBody ch sc) := by
  obtain ⟨hdX, hdY, hd2X, hd2Y⟩ := iterationSums_bounded he ch h
  have hx := newtonUpdate_bounded he h.x hdX hd2X
  have hy := newtonUpdate_bounded he h.y hdY hd2Y
  rw [newtonBody_eq ch sc rfl rfl]
  refine ⟨h.length, h.samples, ?_, ?_⟩
  · dsimp only
    split <;> assumption
  · dsimp only
    split <;> assumption

theorem SpanBounded.iterate (ch : Channel) {sc : Scratch} (h : SpanBounded 0 sc) {k : Nat} (hk : k ≤ 8) :
    SpanBounded (12 * k) ((Machine.newtonBody ch)^[k] sc) := by
  induction k with
  | zero => exact h
  | succ k ih =>
    rw [Function.iterate_succ_apply', Nat.mul_succ]
    exact (ih (by omega)).newtonBody (by omega) ch

/-! ### The bracket before the loop -/

theorem beforeNewton_samples (ch : Channel) (sc : Scratch) :
    (beforeNewton ch sc).samples = (scanMinMax ch sc).samples :=
  (initialBracket_samples ch _).trans (chooseScheme_samples ch _)

/-- The initial bracket of at least one sample is in the domain and in order (42_encoder.md R167, R168). -/
theorem beforeNewton_bracket (ch : Channel) {sc : Scratch} (h : sc.samples ≠ []) :
    Between (domLoInt ch) 1 (beforeNewton ch sc).x ∧ Between (domLoInt ch) 1 (beforeNewton ch sc).y ∧
      funits (beforeNewton ch sc).x ≤ funits (beforeNewton ch sc).y := by
  have hdom {v : Word} (hv : v ∈ (scanMinMax ch sc).samples) := scanMinMax_mem_between hv
  cases hn : (chooseScheme ch (scanMinMax ch sc)).n with
  | eight =>
    obtain ⟨hmin, hmax, hall⟩ := scanMinMax_bounds ch h
    obtain ⟨hx, hy⟩ := initialBracket_eight (ch := ch) hn
    have hx' : (beforeNewton ch sc).x = (scanMinMax ch sc).min := hx
    have hy' : (beforeNewton ch sc).y = (scanMinMax ch sc).max := hy
    rw [hx', hy']
    exact ⟨hdom hmin, hdom hmax, (hall _ hmin).2⟩
  | six =>
    obtain ⟨hx, hy⟩ := initialBracket_six (ch := ch) hn
    have hx' : (beforeNewton ch sc).x = (bracketSix ch (scanMinMax ch sc).samples).1 := hx
    have hy' : (beforeNewton ch sc).y = (bracketSix ch (scanMinMax ch sc).samples).2 := hy
    rw [hx', hy']
    by_cases hsome : ∃ v ∈ (scanMinMax ch sc).samples, isInner ch v = true
    · obtain ⟨v, hv, hin⟩ := hsome
      obtain ⟨⟨hminMem, hminIn⟩, ⟨hmaxMem, -⟩, hall⟩ := bracketSix_spec hv hin
      exact ⟨hdom hminMem, hdom hmaxMem, (hall _ hminMem hminIn).2⟩
    · rw [bracketSix_of_no_inner fun v hv => by simpa using fun hin => hsome ⟨v, hv, hin⟩]
      exact ⟨domHi_between ch, domHi_between ch, le_refl _⟩

theorem beforeNewton_spanBounded (ch : Channel) {sc : Scratch} (h : sc.samples.length = 16) :
    SpanBounded 0 (beforeNewton ch sc) := by
  have hlow : -1 ≤ domLoInt ch := by cases ch <;> decide
  obtain ⟨hx, hy, -⟩ := beforeNewton_bracket ch (ne_nil_of_length_sixteen h)
  refine ⟨?_, fun p hp => ?_, hx.bounded hlow, hy.bounded hlow⟩
  · rw [beforeNewton_samples, scanMinMax_samples, List.length_map, h]
  · rw [beforeNewton_samples] at hp
    exact (scanMinMax_mem_between hp).bounded hlow

/-- Settles O46 (42_encoder.md R185). -/
theorem refinedEndpointsFinite : Obligations.RefinedEndpointsFinite := by
  intro ch sc hlen
  obtain ⟨k, hruns⟩ := newtonLoop_runs ch newtonBound (beforeNewton ch sc)
  have hspan := (beforeNewton_spanBounded ch hlen).iterate ch hruns.le
  rw [← hruns.result] at hspan
  exact ⟨hspan.x.finite, hspan.y.finite⟩

end Sys2Proof.Machine
end

section
/-! PROOFS. The quantizers (42_encoder.md R178, R179). Each is a chain of roundings and of a truncation, none of which
reverses an order; so quantized endpoints are ordered as the endpoints are, and lie between the quantized bounds of the
domain. -/

namespace Sys2Proof.Machine

/-! ### Truncation -/

/-- Truncation is toward zero (00_scope.md R14). -/
theorem truncInt_bounds (a : Word) :
    (0 ≤ funits a → truncInt a * 2 ^ 149 ≤ funits a ∧ funits a < (truncInt a + 1) * 2 ^ 149) ∧
    (funits a ≤ 0 → (truncInt a - 1) * 2 ^ 149 < funits a ∧ funits a ≤ truncInt a * 2 ^ 149) := by
  rw [truncInt_eq_tdiv]
  constructor
  · intro h
    rw [Int.tdiv_eq_ediv_of_nonneg h]
    omega
  · intro h
    rw [← neg_neg (funits a), Int.neg_tdiv, Int.tdiv_eq_ediv_of_nonneg (neg_nonneg.2 h)]
    omega

/-! ### The scaled endpoint -/

theorem endpointScale_bounded (ch : Channel) : Bounded 64 2 (endpointScale ch) := by
  cases ch <;> exact ⟨by decide, by decide +kernel⟩

theorem funits_endpointScale (ch : Channel) : funits (endpointScale ch) = intHi ch * 2 ^ 149 := by
  cases ch <;> decide +kernel

theorem quantU_eq (v : Word) : quantU v = truncInt (fmul v (endpointScale .unsigned)) :=
  congrArg (fun w => truncInt (fmul v w)) (f32_intHi .unsigned)

theorem quantS_eq (v : Word) : quantS v = min 127 (max (-127) (truncInt (biased (fmul v (endpointScale .signed))))) :=
  congrArg (fun w => min 127 (max (-127) (truncInt (biased (fmul v w))))) (f32_intHi .signed)

theorem quantS_range (v : Word) : -127 ≤ quantS v ∧ quantS v ≤ 127 := by
  unfold quantS
  omega

section
variable {v : Word} (hv : Bounded 1 0 v)
include hv

theorem fmul_endpointScale_bounded (ch : Channel) : Bounded 64 2 (fmul v (endpointScale ch)) :=
  (endpointScale_bounded ch).fmul (le_refl _) (by norm_num) hv

theorem fmul_endpointScale_rounded (ch : Channel) :
    Rounded (fmul v (endpointScale ch)) (funits v * funits (endpointScale ch)) (2 ^ 149) := by
  refine fmul_rounded hv.finite (endpointScale_bounded ch).finite ?_
  rw [abs_mul, mul_comm]
  exact mul_le_mul ((endpointScale_bounded ch).abs_le.trans (by norm_num)) (hv.abs_le.trans_eq (by norm_num))
    (abs_nonneg _) (by positivity)

end

theorem fmul_endpointScale_mono (ch : Channel) {v w : Word} (hv : Bounded 1 0 v) (hw : Bounded 1 0 w)
    (h : funits v ≤ funits w) : funits (fmul v (endpointScale ch)) ≤ funits (fmul w (endpointScale ch)) := by
  refine (fmul_endpointScale_rounded hv ch).mono (fmul_endpointScale_rounded hw ch) ?_
  refine mul_le_mul_of_nonneg_right h ?_
  rw [funits_endpointScale]
  cases ch <;> decide

/-! ### The sign-directional bias -/

theorem funits_fhalf : funits fhalf = 2 ^ 148 := by decide +kernel

theorem funits_f0 : funits f0 = 0 := by decide

theorem fge_zero_iff {t : Word} (ht : fisFinite t = true) : fge t f0 = true ↔ 0 ≤ funits t := by
  rw [fge, fle_iff_units (by decide) (fisNaN_of_finite ht), funits_f0]

/-- The biased value is the rounding of `t + 0.5` or of `t - 0.5` (42_encoder.md R179). -/
theorem biased_rounded {t : Word} (ht : Bounded 64 2 t) :
    Rounded (biased t) (if 0 ≤ funits t then funits t + 2 ^ 148 else funits t - 2 ^ 148) 1 := by
  have habs := abs_le.1 ht.abs_le
  have hhalf : fisFinite fhalf = true := by decide
  unfold biased
  by_cases h : 0 ≤ funits t
  · rw [if_pos ((fge_zero_iff ht.finite).2 h), if_pos h, ← funits_fhalf]
    exact fadd_rounded ht.finite hhalf (abs_le.2 (by rw [funits_fhalf]; omega))
  · rw [if_neg (mt (fge_zero_iff ht.finite).1 h), if_neg h, ← funits_fhalf]
    exact fsub_rounded ht.finite hhalf (abs_le.2 (by rw [funits_fhalf]; omega))

theorem biased_mono {t u : Word} (ht : Bounded 64 2 t) (hu : Bounded 64 2 u) (h : funits t ≤ funits u) :
    funits (biased t) ≤ funits (biased u) := by
  refine (biased_rounded ht).mono (biased_rounded hu) ?_
  split <;> split <;> omega

/-! ### The quantizers -/

theorem neg_one_le_domLoInt (ch : Channel) : -1 ≤ domLoInt ch := by cases ch <;> decide

theorem quant_mono {ch : Channel} {v w : Word} (hv : Between (domLoInt ch) 1 v) (hw : Between (domLoInt ch) 1 w)
    (h : funits v ≤ funits w) : quant ch v ≤ quant ch w := by
  have hv' := hv.bounded (neg_one_le_domLoInt ch)
  have hw' := hw.bounded (neg_one_le_domLoInt ch)
  have hscaled := fmul_endpointScale_mono ch hv' hw' h
  cases ch with
  | unsigned =>
    rw [quant, quantU_eq, quantU_eq]
    exact truncInt_mono hscaled
  | signed =>
    have htrunc := truncInt_mono
      (biased_mono (fmul_endpointScale_bounded hv' .signed) (fmul_endpointScale_bounded hw' .signed) hscaled)
    rw [quant, quantS_eq, quantS_eq]
    omega

/-- A quantized value of the domain is an endpoint value of the format (42_encoder.md R178, R179). -/
theorem quant_mem_Icc {ch : Channel} {v : Word} (hv : Between (domLoInt ch) 1 v) :
    quant ch v ∈ Set.Icc (intLo ch) (intHi ch) := by
  have hlo : quant ch (domLo ch) = intLo ch := by cases ch <;> decide +kernel
  have hhi : quant ch domHi = intHi ch := by cases ch <;> decide +kernel
  rw [Set.mem_Icc, ← hlo, ← hhi]
  refine ⟨quant_mono (domLo_between ch) hv ?_, quant_mono hv (domHi_between ch) ?_⟩
  · rw [funits_domLo]
    exact hv.ge
  · rw [funits_domHi]
    simpa using hv.le

/-- Settles O48 (42_encoder.md R178, R179; 00_scope.md R14). -/
theorem quantizersInRange : Obligations.QuantizersInRange := by
  refine ⟨quantU_eq, fun v => ⟨fun h => ?_, fun h => ?_⟩, fun v hlo hhi => ?_, quantS_range, by decide +kernel,
    by decide +kernel, by decide +kernel, by decide +kernel, by decide +kernel, by decide +kernel, by decide +kernel,
    fun v _ => truncInt_bounds v, fun a b h => ?_, fun a b ha hb => ?_, fun c hc => ?_, by decide +kernel,
    fun a => ⟨rfl, fsign_fabs a, funits_fabs a⟩⟩
  · rw [quantS_eq, biased]
    exact congrArg (fun w => min 127 (max (-127) (truncInt w))) (if_pos h)
  · rw [quantS_eq, biased]
    exact congrArg (fun w => min 127 (max (-127) (truncInt w))) (if_neg (Bool.eq_false_iff.1 h))
  · exact quant_mem_Icc (ch := .unsigned) (between_iff.2 ⟨hlo, hhi⟩)
  · rcases h with h | h <;> simp [flt, fle, fgt, fge, feq, h]
  · exact ⟨flt_iff_units ha hb, fle_iff_units ha hb, fgt_iff_units ha hb, fle_iff_units hb ha, by
      simp [feq_iff, ha, hb]⟩
  · have hinf : funits 0xFF800000 = -(magUnits 0x7F800000 : Int) ∧ funits 0x7F800000 = (magUnits 0x7F800000 : Int) := by
      decide +kernel
    have hmag := magUnits_strictMono ((fisFinite_iff c).1 hc)
    rw [← fmag_eq_magUnits, ← natAbs_funits] at hmag
    rw [hinf.1, hinf.2]
    omega

end Sys2Proof.Machine
end

section
/-! PROOFS. The packed block (42_encoder.md R181), bit by bit: each bit of `pack` and of the index writes is a bit of an
endpoint byte or of an index, at the places of 40_block_format.md R100. -/

namespace Sys2Proof.Machine

/-- Bit `n` of the index bits is a bit of the index whose field it stands in. -/
theorem getLsbD_packIndices {vs : List Nat} (hvs : ∀ v ∈ vs, v < 8) (i : Nat) {n : Nat} (hn : n < 64) :
    (packIndices i vs).getLsbD n =
      (decide (idxShift i ≤ n) && (vs.getD ((n - idxShift i) / 3) 0).testBit ((n - idxShift i) % 3)) := by
  induction vs generalizing i with
  | nil => simp [packIndices]
  | cons v vs ih =>
    obtain ⟨hv, hrest⟩ := List.forall_mem_cons.1 hvs
    have hnext : idxShift (i + 1) = idxShift i + 3 := by unfold idxShift; omega
    rw [packIndices, BitVec.getLsbD_or, BitVec.getLsbD_ofNat, ih hrest, hnext, Nat.testBit_mul_two_pow]
    rcases Nat.lt_or_ge n (idxShift i) with hbelow | hge
    · simp [hn, show ¬ idxShift i ≤ n by omega, show ¬ idxShift i + 3 ≤ n by omega]
    · obtain ⟨k, rfl⟩ := Nat.exists_eq_add_of_le hge
      rcases Nat.lt_or_ge k 3 with hin | habove
      · simp [hn, show ¬ idxShift i + 3 ≤ idxShift i + k by omega, Nat.div_eq_of_lt hin, Nat.mod_eq_of_lt hin]
      · have hclear : v.testBit k = false :=
          Nat.testBit_lt_two_pow (hv.trans_le (Nat.pow_le_pow_right two_pos habove : 2 ^ 3 ≤ 2 ^ k))
        have hfield : k / 3 = (k - 3) / 3 + 1 ∧ k % 3 = (k - 3) % 3 := by omega
        simp [hn, hclear, hfield, show idxShift i + k - (idxShift i + 3) = k - 3 by omega, habove]

/-- Bits 7:0 and 15:8 of a packed block are those of the endpoint bytes, the others those of the indices. -/
theorem getLsbD_pack (e0 e1 : Int) {idx : List Nat} (hidx : ∀ v ∈ idx, v < 8) {n : Nat} (hn : n < 64) :
    (pack e0 e1 idx).getLsbD n =
      if n < 8 then (BitVec.ofInt 8 e0).getLsbD n
      else if n < 16 then (BitVec.ofInt 8 e1).getLsbD (n - 8)
      else (idx.getD ((n - 16) / 3) 0).testBit ((n - 16) % 3) := by
  have hbyte (e : Int) {k : Nat} (hk : 8 ≤ k) : (epByte e).testBit k = false :=
    Nat.testBit_lt_two_pow ((show epByte e < 2 ^ 8 by unfold epByte; omega).trans_le (Nat.pow_le_pow_right two_pos hk))
  have hshift : idxShift 0 = 16 := rfl
  rw [pack, BitVec.getLsbD_or, BitVec.getLsbD_or, BitVec.getLsbD_ofNat, BitVec.getLsbD_ofNat, getLsbD_packIndices hidx 0 hn,
    Nat.testBit_mul_two_pow, hshift, ← ofNat_epByte, ← ofNat_epByte, BitVec.getLsbD_ofNat, BitVec.getLsbD_ofNat]
  split
  · next h0 => simp [hn, h0, show ¬ 8 ≤ n by omega, show ¬ 16 ≤ n by omega]
  · next h0 =>
    split
    · next h1 => simp [hn, hbyte e0 (not_lt.1 h0), show 8 ≤ n by omega, show n - 8 < 8 by omega, show ¬ 16 ≤ n by omega]
    · next h1 => simp [hn, hbyte e0 (not_lt.1 h0), hbyte e1 (show 8 ≤ n - 8 by omega), show 16 ≤ n by omega]

theorem extractLsb'_pack_e0 (e0 e1 : Int) {idx : List Nat} (hidx : ∀ v ∈ idx, v < 8) :
    (pack e0 e1 idx).extractLsb' 0 8 = BitVec.ofInt 8 e0 := by
  apply BitVec.eq_of_getLsbD_eq
  intro k hk
  rw [BitVec.getLsbD_extractLsb', getLsbD_pack e0 e1 hidx (by omega), if_pos (by omega)]
  simp [hk]

theorem extractLsb'_pack_e1 (e0 e1 : Int) {idx : List Nat} (hidx : ∀ v ∈ idx, v < 8) :
    (pack e0 e1 idx).extractLsb' 8 8 = BitVec.ofInt 8 e1 := by
  apply BitVec.eq_of_getLsbD_eq
  intro k hk
  rw [BitVec.getLsbD_extractLsb', getLsbD_pack e0 e1 hidx (by omega), if_neg (by omega), if_pos (by omega)]
  simp [hk]

theorem extractLsb'_pack_idx (e0 e1 : Int) {idx : List Nat} (hidx : ∀ v ∈ idx, v < 8) {i : Nat} (hi : i < 16) :
    (pack e0 e1 idx).extractLsb' (16 + 3 * i) 3 = BitVec.ofNat 3 (idx.getD i 0) := by
  apply BitVec.eq_of_getLsbD_eq
  intro k hk
  rw [BitVec.getLsbD_extractLsb', getLsbD_pack e0 e1 hidx (by omega), if_neg (by omega), if_neg (by omega),
    show (16 + 3 * i + k - 16) / 3 = i by omega, show (16 + 3 * i + k - 16) % 3 = k by omega, BitVec.getLsbD_ofNat]

/-- Index writes in order: bits 16 to 15+3m are those of the first `m` indices, the others are as they were. -/
theorem getLsbD_foldl_idxSet (f : Nat → Nat) (b : Block) {m : Nat} (hm : m ≤ 16) {n : Nat} (hn : n < 64) :
    ((List.range m).foldl (fun c i => idxSet c i (f i)) b).getLsbD n =
      if 16 ≤ n ∧ n < 16 + 3 * m then (f ((n - 16) / 3)).testBit ((n - 16) % 3) else b.getLsbD n := by
  induction m with
  | zero => rw [if_neg (by omega)]; rfl
  | succ m ih =>
    rw [List.range_succ, List.foldl_append, List.foldl_cons, List.foldl_nil, idxSet, getLsbD_setField _ _ _ _ hn,
      ih (by omega)]
    unfold idxShift
    by_cases hfield : 16 + 3 * m ≤ n ∧ n < 16 + 3 * m + 3
    · rw [if_pos hfield, if_pos (by omega), show (n - 16) / 3 = m by omega,
        show (n - 16) % 3 = n - (16 + 3 * m) by omega]
    · rw [if_neg hfield]
      congr 1
      rw [eq_iff_iff]
      omega

theorem epStored_of_ne {e : Int} (ch : Channel) (h : e ≠ -128) : epStored e ch = e := by
  cases ch with
  | unsigned => rfl
  | signed => exact if_neg h

theorem getLsbD_epWrite (b : Block) (ep : Ep) {ch : Channel} {e : Int} (h : e ≠ -128) {n : Nat} (hn : n < 64) :
    (epWrite b ep ch e).getLsbD n =
      if epShift ep ≤ n ∧ n < epShift ep + 8 then (BitVec.ofInt 8 e).getLsbD (n - epShift ep) else b.getLsbD n := by
  rw [epWrite, epStored_of_ne ch h, getLsbD_setField _ _ _ _ hn]
  split
  · next hin => rw [← ofNat_epByte, BitVec.getLsbD_ofNat, decide_eq_true (by omega), Bool.true_and]
  · rfl

/-- Settles O50 (42_encoder.md R181). -/
theorem packFields : Obligations.PackFields := by
  intro e0 e1 idx hlen hidx
  refine ⟨extractLsb'_pack_e0 e0 e1 hidx, extractLsb'_pack_e1 e0 e1 hidx, fun i hi => ?_, fun b ch _ _ h0 h1 => ?_⟩
  · have hlt : idx.getD i 0 < 8 := by
      rw [List.getD_eq_getElem _ _ (hlen ▸ hi)]
      exact hidx _ (List.getElem_mem _)
    rw [extractLsb'_pack_idx e0 e1 hidx hi, BitVec.toNat_ofNat, Nat.mod_eq_of_lt hlt]
  · apply BitVec.eq_of_getLsbD_eq
    intro n hn
    rw [getLsbD_pack e0 e1 hidx hn, getLsbD_foldl_idxSet (fun i => idx.getD i 0) _ (le_refl _) hn,
      getLsbD_epWrite _ _ h1 hn, getLsbD_epWrite _ _ h0 hn]
    rw [show epShift .e0 = 0 from rfl, show epShift .e1 = 8 from rfl]
    rcases Nat.lt_or_ge n 8 with hlow | hge
    · rw [if_pos hlow, if_neg (by omega), if_neg (by omega), if_pos (by omega), Nat.sub_zero]
    · rw [if_neg (by omega)]
      rcases Nat.lt_or_ge n 16 with hmid | hhigh
      · rw [if_pos hmid, if_neg (by omega), if_pos (by omega)]
      · rw [if_neg (by omega), if_pos (by omega)]

/-- The endpoint bytes of a packed block (40_block_format.md R104). -/
theorem epRaw_pack (e0 e1 : Int) {idx : List Nat} (hidx : ∀ v ∈ idx, v < 8) (ep : Ep) :
    epRaw (pack e0 e1 idx) ep = BitVec.ofInt 8 (if ep = .e0 then e0 else e1) := by
  cases ep with
  | e0 => exact extractLsb'_pack_e0 e0 e1 hidx
  | e1 => exact extractLsb'_pack_e1 e0 e1 hidx

/-- Packing an endpoint value of the format and reading it gives it back. -/
theorem epValue_of_epRaw_ofInt {ch : Channel} {b : Block} {ep : Ep} {e : Int} (he : e ∈ Set.Icc (intLo ch) (intHi ch))
    (hraw : epRaw b ep = BitVec.ofInt 8 e) : epValue b ep ch = e := by
  obtain ⟨hlo, hhi⟩ := he
  cases ch with
  | unsigned =>
    simp only [intLo, intHi] at hlo hhi
    rw [epValue, hraw, BitVec.toNat_ofInt]
    omega
  | signed =>
    simp only [intLo, intHi] at hlo hhi
    rw [epValue_signed, hraw, BitVec.toInt_ofInt_eq_self (by norm_num) (by omega) (by omega)]
    exact epStored_of_ne .signed (by omega)

theorem epValue_pack {ch : Channel} {e0 e1 : Int} (h0 : e0 ∈ Set.Icc (intLo ch) (intHi ch))
    (h1 : e1 ∈ Set.Icc (intLo ch) (intHi ch)) {idx : List Nat} (hidx : ∀ v ∈ idx, v < 8) :
    epValue (pack e0 e1 idx) .e0 ch = e0 ∧ epValue (pack e0 e1 idx) .e1 ch = e1 :=
  ⟨epValue_of_epRaw_ofInt h0 (epRaw_pack e0 e1 hidx .e0), epValue_of_epRaw_ofInt h1 (epRaw_pack e0 e1 hidx .e1)⟩

end Sys2Proof.Machine
end

section
/-! PROOFS. The encode as a whole (42_encoder.md R160, R177 to R188): the quantized endpoints are in the order of the refined
ones, which the loop's swap keeps (R175); and the two ENCODE commands, which differ in the format alone. -/

namespace Sys2Proof.Machine

/-! ### The refined endpoints and what they become -/

/-- The refined endpoints are numbers in order (42_encoder.md R175, R185). -/
theorem newtonLoop_ordered (ch : Channel) {sc : Scratch} (h : sc.samples.length = 16) :
    fisNaN (newtonLoop ch newtonBound (beforeNewton ch sc)).x = false ∧
    fisNaN (newtonLoop ch newtonBound (beforeNewton ch sc)).y = false ∧
      funits (newtonLoop ch newtonBound (beforeNewton ch sc)).x ≤
        funits (newtonLoop ch newtonBound (beforeNewton ch sc)).y := by
  obtain ⟨hx, hy⟩ := refinedEndpointsFinite ch sc h
  have hxNum := fisNaN_of_finite hx
  have hyNum := fisNaN_of_finite hy
  refine ⟨hxNum, hyNum, ?_⟩
  obtain ⟨k, hruns⟩ := newtonLoop_runs ch newtonBound (beforeNewton ch sc)
  cases k with
  | zero =>
    rw [hruns.result]
    exact (beforeNewton_bracket ch (ne_nil_of_length_sixteen h)).2.2
  | succ k =>
    refine (flt_eq_false_iff_units hyNum hxNum).1 ?_
    rw [hruns.result, Function.iterate_succ_apply']
    exact newtonBody_ordered ch _

/-- A clamped number of the domain, quantized: order is kept from the refined endpoints on (42_encoder.md R177). -/
theorem quant_clampTo_mono {ch : Channel} {v w : Word} (hv : fisNaN v = false) (hw : fisNaN w = false)
    (h : funits v ≤ funits w) : quant ch (clampTo v (domLo ch) domHi) ≤ quant ch (clampTo w (domLo ch) domHi) :=
  quant_mono (clampTo_between ch v) (clampTo_between ch w) (funits_clampTo_mono hv hw h)

section
variable (ch : Channel) (sc : Scratch)

theorem encodeStages_n : (encodeStages ch sc).n = (newtonLoop ch newtonBound (beforeNewton ch sc)).n := by
  rw [encodeStages_eq, findClosest_n, buildPalette_n, quantize_n, clampEnds_n]

theorem encodeStages_samples : (encodeStages ch sc).samples = (scanMinMax ch sc).samples := by
  rw [encodeStages_eq, findClosest_samples, buildPalette_samples, quantize_samples, clampEnds_samples,
    newtonLoop_samples, beforeNewton_samples]

theorem encodeStages_pal :
    (encodeStages ch sc).pal = palF (pack (encodeStages ch sc).e0 (encodeStages ch sc).e1 []) ch := rfl

theorem encodeStages_pal_length : (encodeStages ch sc).pal.length = 8 := palF_length _ _

theorem encodeStages_idx : (encodeStages ch sc).idx = (scanMinMax ch sc).samples.map (closest (encodeStages ch sc).pal) := by
  rw [← encodeStages_samples]
  rfl

theorem encodeStages_idx_lt : ∀ v ∈ (encodeStages ch sc).idx, v < 8 := by
  rw [encodeStages_idx]
  exact List.forall_mem_map.2 fun p _ => closest_lt _ p (encodeStages_pal_length ch sc)

theorem encodeStages_iter_le : (encodeStages ch sc).iter ≤ 8 := by
  rw [encodeStages_eq, findClosest_iter, buildPalette_iter, quantize_iter, clampEnds_iter]
  exact newtonLoop_iter_le ch newtonBound (beforeNewton ch sc)

/-- In 6-point mode `A` is the lower endpoint (42_encoder.md R177). -/
theorem encodeStages_six (h : (encodeStages ch sc).n = .six) :
    (encodeStages ch sc).e0 = quant ch (clampTo (newtonLoop ch newtonBound (beforeNewton ch sc)).x (domLo ch) domHi) ∧
    (encodeStages ch sc).e1 = quant ch (clampTo (newtonLoop ch newtonBound (beforeNewton ch sc)).y (domLo ch) domHi) := by
  rw [encodeStages_n] at h
  simp [encodeStages_eq, findClosest, buildPalette, quantize, endA, endB, clampEnds, h]

/-- In 8-point mode `A` is the upper endpoint (42_encoder.md R177). -/
theorem encodeStages_eight (h : (encodeStages ch sc).n = .eight) :
    (encodeStages ch sc).e0 = quant ch (clampTo (newtonLoop ch newtonBound (beforeNewton ch sc)).y (domLo ch) domHi) ∧
    (encodeStages ch sc).e1 = quant ch (clampTo (newtonLoop ch newtonBound (beforeNewton ch sc)).x (domLo ch) domHi) := by
  rw [encodeStages_n] at h
  simp [encodeStages_eq, findClosest, buildPalette, quantize, endA, endB, clampEnds, h]

/-- The quantized endpoints are endpoint values of the format (42_encoder.md R178, R179). -/
theorem encodeStages_mem_Icc : (encodeStages ch sc).e0 ∈ Set.Icc (intLo ch) (intHi ch) ∧
    (encodeStages ch sc).e1 ∈ Set.Icc (intLo ch) (intHi ch) := by
  cases hn : (encodeStages ch sc).n with
  | six =>
    rw [(encodeStages_six ch sc hn).1, (encodeStages_six ch sc hn).2]
    exact ⟨quant_mem_Icc (clampTo_between ch _), quant_mem_Icc (clampTo_between ch _)⟩
  | eight =>
    rw [(encodeStages_eight ch sc hn).1, (encodeStages_eight ch sc hn).2]
    exact ⟨quant_mem_Icc (clampTo_between ch _), quant_mem_Icc (clampTo_between ch _)⟩

/-- The bytes of the encoded block read as the quantized endpoints. -/
theorem epValue_encodedBlock : epValue (encodedBlock (encodeStages ch sc)) .e0 ch = (encodeStages ch sc).e0 ∧
    epValue (encodedBlock (encodeStages ch sc)) .e1 ch = (encodeStages ch sc).e1 := by
  obtain ⟨h0, h1⟩ := encodeStages_mem_Icc ch sc
  exact epValue_pack h0 h1 (encodeStages_idx_lt ch sc)

/-- The palette of the encode is that of the stored endpoints (42_encoder.md R180). -/
theorem encodeStages_pal_getD {k : Nat} (hk : k < 8) :
    (encodeStages ch sc).pal.getD k 0 = slotFloat ch (encodeStages ch sc).e0 (encodeStages ch sc).e1 k := by
  obtain ⟨h0, h1⟩ := encodeStages_mem_Icc ch sc
  obtain ⟨hv0, hv1⟩ := epValue_pack h0 h1 (idx := []) (fun _ h => absurd h List.not_mem_nil)
  rw [encodeStages_pal, palF_getD _ _ hk, hv0, hv1]

end

/-- Settles O47 (42_encoder.md R177, R180, R186). -/
theorem quantizedEndpointsOrdered : Obligations.QuantizedEndpointsOrdered := by
  intro ch sc hlen r a b u
  obtain ⟨ha, hb⟩ : a = r.e0 ∧ b = r.e1 := epValue_encodedBlock ch sc
  obtain ⟨hx, hy, hxy⟩ := newtonLoop_ordered ch hlen
  have hordered := quant_clampTo_mono (ch := ch) hx hy hxy
  have hsix (hn : r.n = .six) : r.e0 ≤ r.e1 := by
    obtain ⟨h0, h1⟩ := encodeStages_six ch sc hn
    exact h0.trans_le (hordered.trans_eq h1.symm)
  have height (hn : r.n = .eight) : r.e1 ≤ r.e0 := by
    obtain ⟨h0, h1⟩ := encodeStages_eight ch sc hn
    exact h1.trans_le (hordered.trans_eq h0.symm)
  have hidx : r.idx = (scanMinMax ch sc).samples.map (closest r.pal) := encodeStages_idx ch sc
  refine ⟨ha, hb, encodeStages_six ch sc, encodeStages_eight ch sc, fun hn => ⟨hsix hn, ?_⟩,
    fun hn => ⟨height hn, fun hlt => ?_, fun heq => ?_⟩, encodeStages_pal_length ch sc, fun k hk => ?_, ?_, fun i hi => ?_⟩
  · rw [ha, hb]
    exact schemeOf_six (hsix hn).not_gt
  · rw [ha, hb]
    exact schemeOf_eight hlt
  · rw [ha, hb]
    exact schemeOf_six heq.le.not_gt
  · rw [ha, hb]
    exact encodeStages_pal_getD ch sc hk
  · rw [hidx, List.length_map, scanMinMax_samples, List.length_map, hlen]
  · rw [hidx, scanMinMax_samples, List.map_map, List.getD_eq_getElem _ _ (by rwa [List.length_map, hlen]),
      List.getElem_map, List.getD_eq_getElem _ _ (by rwa [hlen])]
    rfl

/-! ### The ENCODE commands -/

theorem gatherList_map_sampleAt (s : State) : s.gatherList.map (sampleAt s) = gatheredSamples s := by
  rw [State.gatherList, gatherAddrs, List.map_map]
  rfl

section
variable {i : Instr} {ch : Channel} {slot : Slot} {s : State} (hexec : exec i s = encodeChannel ch slot s)
include hexec

/-- An ENCODE with a source buffer and every gather address in bounds completes with the block and ENC_INFO of its
stages (42_encoder.md R160, R182, R184). -/
theorem exists_of_exec_encode (hvalid : s.operands.bufcfg.getLsbD 0 = true) (hin : gatherInBounds s) :
    ∃ t, exec i s = .next t ∧
      t.sc = encodeStages ch { s.sc with samples := gatheredSamples s } ∧
      t.block slot = pack t.sc.e0 t.sc.e1 t.sc.idx ∧
      t.sc.iter ≤ 8 ∧
      t.encInfo.toNat = t.sc.iter + (if t.sc.n = .six then 16 else 0) + 32 * ch.bit.toNat + 64 ∧
      CompletedWith .none s t ∧ KeepsAllButEncode slot s t := by
  have hload := loadValues_of_inBounds hin
  rw [gatherList_map_sampleAt] at hload
  obtain ⟨hblock, hinfo, hsc, hcompleted, hkeeps⟩ :=
    finishEncode_spec s ch slot (s.encodeScratch ch (gatheredSamples s))
  have hiter : (s.encodeScratch ch (gatheredSamples s)).iter ≤ 8 := encodeStages_iter_le ch _
  have hsrc : srcValid s.operands.bufcfg = true := hvalid
  refine ⟨_, by rw [hexec, encodeChannel, if_pos hsrc, hload], hsc, ?_, ?_, ?_, hcompleted, hkeeps⟩
  · rw [hsc]
    exact hblock
  · rw [hsc]
    exact hiter
  · rw [hinfo, hsc, encInfoWord_toNat, Nat.mod_eq_of_lt (by omega)]
    cases (s.encodeScratch ch (gatheredSamples s)).n <;> rfl

/-- Without a source buffer it raises MISSING_ARGUMENT, before any sample is read (42_encoder.md R182). -/
theorem exists_of_exec_encode_missing (hmissing : s.operands.bufcfg.getLsbD 0 = false) :
    ∃ t, exec i s = .next t ∧ CompletedWith .missingArgument s t ∧ KeepsAll s t :=
  exists_of_exec_raiseError (by rw [hexec, encodeChannel, srcValid, hmissing]; rfl)

end

/-- Settles O51 (42_encoder.md R160, R162, R182, R184). -/
theorem encodeUnsigned : Obligations.EncodeUnsigned := fun s slot =>
  ⟨by cases slot <;> rfl, exists_of_exec_encode (i := .encodeU slot) rfl,
    exists_of_exec_encode_missing (i := .encodeU slot) rfl, fun hvalid hout => exec_undefined ⟨rfl, hvalid, hout⟩⟩

/-- Settles O52 (42_encoder.md R160, R162, R183, R184). -/
theorem encodeSigned : Obligations.EncodeSigned := fun s slot =>
  ⟨by cases slot <;> rfl, exists_of_exec_encode (i := .encodeS slot) rfl,
    exists_of_exec_encode_missing (i := .encodeS slot) rfl, fun hvalid hout => exec_undefined ⟨rfl, hvalid, hout⟩⟩

/-! ### What an ENCODE depends on -/

section
variable {s s' : State} (h : SameEncodeInputs s s')
include h

theorem SameEncodeInputs.gatherList : s'.gatherList = s.gatherList := by
  simp only [State.gatherList, State.argInt0, State.argInt1, State.argInt2, h.arg0, h.arg1, h.arg2]

theorem SameEncodeInputs.srcAddrOk (a : Int) : srcAddrOk s' a = srcAddrOk s a := by
  simp only [Machine.srcAddrOk, h.srcLen, h.srcBase, h.srcWords]

/-- A sample inside SRC is the same. -/
theorem SameEncodeInputs.sampleAt {a : Int} (ha : Machine.srcAddrOk s a = true) : sampleAt s' a = sampleAt s a := by
  obtain ⟨hpos, -, hsrc⟩ := (srcAddrOk_iff s a).1 ha
  rw [Machine.sampleAt, Machine.sampleAt, h.srcBase]
  exact h.src _ (by omega)

/-- The gather (42_encoder.md R162) is the same, also where it is out of bounds. -/
theorem SameEncodeInputs.loadValues : loadValues s' = loadValues s := by
  simp only [Machine.loadValues, h.gatherList, funext h.srcAddrOk]
  split
  · next hall => rw [List.map_congr_left fun a ha => h.sampleAt (List.all_eq_true.1 hall a ha)]
  · rfl

/-- The samples alone decide the block and ENC_INFO (42_encoder.md R188). -/
theorem SameEncodeInputs.encodeChannel (ch : Channel) (slot : Slot) :
    (∀ t, s.operands.bufcfg.getLsbD 0 = true → encodeChannel ch slot s = .next t →
      ∃ t', Machine.encodeChannel ch slot s' = .next t' ∧ t'.block slot = t.block slot ∧ t'.encInfo = t.encInfo) ∧
    (∀ f, Machine.encodeChannel ch slot s = .fault f → Machine.encodeChannel ch slot s' = .fault f) := by
  simp only [Machine.encodeChannel, h.bufcfg, h.loadValues]
  cases hvalid : srcValid s.operands.bufcfg with
  | false => exact ⟨fun t hbit => absurd (hvalid.symm.trans hbit) (by decide), fun f hf => absurd hf (by simp)⟩
  | true =>
    cases hload : Machine.loadValues s with
    | none => exact ⟨fun t _ ht => absurd ht (by simp), fun f hf => hf⟩
    | some samples =>
      refine ⟨fun t _ ht => ?_, fun f hf => absurd hf (by simp)⟩
      cases ht
      obtain ⟨hblock, hiter, hn⟩ := encodeStages_congr (ch := ch) (a := { s'.sc with samples := samples })
        (b := { s.sc with samples := samples }) rfl
      refine ⟨_, rfl, ?_, ?_⟩
      · rw [State.finishEncode_block_same, State.finishEncode_block_same]
        exact hblock
      · rw [State.finishEncode_encInfo, State.finishEncode_encInfo, State.encodeScratch, State.encodeScratch, hiter, hn]

end

/-- Settles O53 (42_encoder.md R188). -/
theorem encodeDeterministic : Obligations.EncodeDeterministic := by
  rintro i slot s s' (rfl | rfl) h
  · exact h.encodeChannel .unsigned slot
  · exact h.encodeChannel .signed slot

end Sys2Proof.Machine
end

section
/-! PROOFS. The control command (43_control.md R200). NOP is the one command of OP 0, and it is nothing but completion. -/

namespace Sys2Proof

open Machine

/-- The row of OP 0 in the opcode map of 30_encoding.md R74 is NOP's alone. -/
theorem eq_nop_of_op_eq_zero {i : Instr} (h : i.fields.op = 0) : i = .nop := by
  cases i with
  | nop => rfl
  | _ => exact absurd h (by simp [Instr.fields])

/-- A modifier or a reserved bit beside OP 0 makes a word illegal (30_encoding.md R72). -/
theorem decode_of_op_eq_zero {w : Word} (hne : w ≠ 0) (hop : (fieldsOf w).op = 0) : ∃ e, decode w = .error e := by
  cases hdecode : decode w with
  | error e => exact ⟨e, rfl⟩
  | ok i =>
    have hfields : fieldsOf w = i.fields := decode_eq_ok_iff_fields.mp hdecode
    obtain rfl : i = .nop := eq_nop_of_op_eq_zero (hfields ▸ hop)
    exact absurd (decode_eq_ok_iff.mp hdecode) hne

theorem exec_nop (s : State) : exec .nop s = .next s.complete := rfl

/-- What issue clears, a completion without an error leaves clear (10_state.md R25, 70_reset_and_hazards.md R256). -/
theorem status_complete_issue (s : State) (w : Word) : (s.issue w).complete.status = 0x00000002 := by
  have hdone : statusAtCompletion statusAtIssue .none = 0x00000002 := by decide
  exact hdone

/-- Settles O15 (43_control.md R200). -/
theorem nopOnlyCompletes : Obligations.NopOnlyCompletes :=
  ⟨decode_eq_ok_iff.mpr rfl, fun _ => decode_of_op_eq_zero,
    fun s => ⟨_, exec_nop s, complete_completed s, complete_keeps s⟩,
    fun s => ⟨_, exec_nop _, status_complete_issue s _⟩⟩

end Sys2Proof
end

section
/-! PROOFS. The errors (60_exceptions.md R222, R223) and the steps that answer (R220, R228). Each way a command ends
(`CommandEnds`) completes with the code of the table, and the one way open to a command in error writes nothing. A step
answers because each action does, where its own rule defines it. -/

namespace Sys2Proof.Machine

/-! ### The error table -/

/-- Each way a command ends is a completion with the code of 60_exceptions.md R223, and keeps OVERRUN (R222). -/
theorem CommandEnds.completedWith {i : Instr} {s t : State} (h : CommandEnds i s t) :
    CompletedWith (commandError i s) s t := by
  cases h with
  | noWrite => exact finish_completed s _
  | result v _ he => obtain ⟨-, hdone, -⟩ := finishResult_spec s v; rwa [he]
  | block slot b _ he => obtain ⟨-, hdone, -⟩ := finishBlock_spec s slot b; rwa [he]
  | encode ch slot samples _ _ he =>
    obtain ⟨-, -, -, hdone, -⟩ := finishEncode_spec s ch slot (s.encodeScratch ch samples)
    rwa [he]
  | out pal _ _ he => obtain ⟨-, hdone, -⟩ := outWriteAll_complete_spec s s.outIndex pal; rwa [he]

/-- A command that ends in an error has made no write: every way of ending that writes has the code NONE. -/
theorem CommandEnds.keepsAll {i : Instr} {s t : State} (h : CommandEnds i s t) (herror : commandError i s ≠ .none) :
    KeepsAll s t := by
  cases h with
  | noWrite => exact raiseError_keeps s _
  | result v _ he => exact absurd he herror
  | block slot b _ he => exact absurd he herror
  | encode ch slot samples _ _ he => exact absurd he herror
  | out pal _ _ he => exact absurd he herror

/-- Settles O54 (60_exceptions.md R222, R223); the illegal word is part of O2. -/
theorem errorTableAndErrorFrame : Obligations.ErrorTableAndErrorFrame := by
  obtain ⟨-, -, -, hillegal⟩ := legalWordsAndIllegalWords
  exact ⟨fun i s t h => ⟨(exec_ends h).completedWith, (exec_ends h).keepsAll⟩, hillegal⟩

/-! ### The steps that answer -/

/-- The command in execution, if any, gathers no sample out of bounds (42_encoder.md R162). -/
def gatherDefined (s : State) : Prop :=
  ∀ w a i, s.seq = .busy w a → decode w = .ok i → ¬ gatherUndefined i s

theorem gatherDefined_setScript {s : State} (h : gatherDefined s) (rest : List HostAction) :
    gatherDefined { s with script := rest } := h

/-- An illegal word is completed, so it answers too (30_encoding.md R72). -/
theorem coreStep_answers {s : State} (h : gatherDefined s) : ∃ t, coreStep s = .next t := by
  cases hseq : s.seq with
  | idle => exact ⟨s, coreStep_idle hseq⟩
  | busy w a =>
    cases hdecode : decode w with
    | ok i => rw [coreStep_busy hseq hdecode]; exact exec_defined (h w a i hseq hdecode)
    | error e => exact ⟨s.raiseError .illegalCommand, by simp [coreStep, hseq, hdecode]⟩

theorem accessOutcome_answers {s : State} {width : BusWidth} {addr : Nat} (t : State)
    (h : touchesWindow s.params width addr = true → accessDefined s.params width addr = true) :
    ∃ u, s.accessOutcome width addr t = .next u := by
  unfold State.accessOutcome
  split
  · next htouches => exact ⟨t, if_pos (h htouches)⟩
  · exact ⟨s, rfl⟩

theorem act_answers {a : HostAction} {s : State} (ha : actionDefined s.params a) (h : gatherDefined s) :
    ∃ t, act a s = .next t := by
  cases a with
  | read width addr => exact accessOutcome_answers _ ha
  | write width addr v => exact accessOutcome_answers _ ha
  | complete => exact coreStep_answers h
  | reset => exact ⟨s.resetEvent, rfl⟩

/-- Settles O13 (60_exceptions.md R220, R228, R230). -/
theorem stepCompletesUnlessUndefined : Obligations.StepCompletesUnlessUndefined := by
  intro s haction hgather
  have hdefined : gatherDefined s := fun w a i hseq hdecode ⟨hencode, hvalid, hout⟩ =>
    hout (hgather w a i hseq hdecode hencode hvalid)
  cases hscript : s.script with
  | nil => rw [step_nil hscript]; exact coreStep_answers hdefined
  | cons a rest =>
    rw [step_cons hscript]
    exact act_answers (haction a rest hscript) (gatherDefined_setScript hdefined rest)

end Sys2Proof.Machine
end

section
/-! PROOFS. Reads while BUSY (70_reset_and_hazards.md R258). The words that have a value then are read as at idle
(`step_read`); any other read of the window still answers, and writes nothing but the read log and the count of draws. -/

namespace Sys2Proof.Machine

/-- A step whose next action reads a word of the window, whatever it returns (20_memory.md R59). -/
theorem step_read_returns {s : State} {o : Nat} {rest : List HostAction}
    (h : s.script = .read .w32 (s.params.coreBase + o) :: rest) (ho : o < 0x3000) (h4 : o % 4 = 0) :
    ∃ (v : Word) (n : Nat), step s = .next
      { s with script := rest, readLog := (s.params.coreBase + o, v) :: s.readLog, draws := n } := by
  obtain ⟨v, n, hread⟩ := busRead_cases { s with script := rest } (s.params.coreBase + o) (busTarget s.params o)
  exact ⟨v, n, by rw [step_cons h, act, hostRead_window { s with script := rest } ho h4, hread]⟩

/-- The registers whose reads are specified while BUSY (70_reset_and_hazards.md R258), by their offsets. -/
def regsReadableWhileBusy : List Reg :=
  [.id, .cmd, .status, .arg0, .arg1, .arg2, .arg3, .bufcfg, .srcBase, .srcLen, .dstBase, .dstLen]

theorem specified_of_readableWhileBusy :
    ∀ r ∈ regsReadableWhileBusy, unspecifiedWhileBusy (.reg r) = false := by decide

/-- Settles O7: SRC, the reserved offsets and the registers of the table but for 0x38 and 0x3C read by `step_read`; the
reserved bits that a read of STATUS or BUFCFG masks are 0 by the invariant. -/
theorem readsWhileBusy : Obligations.ReadsWhileBusy := by
  intro s rest hinv _
  obtain ⟨⟨⟨-, hsrc⟩, -⟩, hout⟩ : ((_ ∧ s.params.srcWords ≤ 1024) ∧ _) ∧ s.params.outWords ≤ 1024 := by
    simpa only [Params.wf, Bool.and_eq_true, decide_eq_true_eq] using hinv.params
  refine ⟨fun c hc h => ?_, fun j hj h => ?_, fun o ho h => ?_, fun o h4 ho h => ?_⟩
  · obtain ⟨hstatus0, -⟩ := hinv.status
    have hstatus : s.status &&& statusMask = s.status := and_mask_of_reserved hstatus0
    have hbufcfg : s.live.bufcfg &&& bufcfgMask = s.live.bufcfg := and_mask_of_reserved hinv.bufcfg
    have hcases : c ∈ regsReadableWhileBusy.map (fun r => (r.offset, s.regRead r)) ++ [(0x38, 0), (0x3C, 0)] := by
      simpa only [regsReadableWhileBusy, List.map, List.cons_append, List.nil_append, Reg.offset, State.regRead, hstatus,
        hbufcfg] using hc
    rcases List.mem_append.1 hcases with hreg | hreserved
    · obtain ⟨r, hr, rfl⟩ := List.mem_map.1 hreg
      exact step_read h r.offset_lt r.offset_aligned (busTarget_reg _ r) (.inr (specified_of_readableWhileBusy r hr))
    · obtain rfl | rfl : c = (0x38, 0) ∨ c = (0x3C, 0) := by simpa using hreserved
      · exact step_read h (by decide) (by decide) (busTarget_reserved (.inl rfl)) (.inr rfl)
      · exact step_read h (by decide) (by decide) (busTarget_reserved (.inr (.inl rfl))) (.inr rfl)
  · rw [Nat.add_assoc] at h ⊢
    exact step_read h (by omega) (by omega) (busTarget_srcOffset hinv.params hj) (.inr rfl)
  · obtain ⟨hlt, h4⟩ : o < 0x3000 ∧ o % 4 = 0 := by
      rcases ho with hreg | ⟨j, hj, rfl⟩
      · exact (by decide : ∀ o ∈ [0x0C, 0x20, 0x40, 0x44, 0x48, 0x4C], o < 0x3000 ∧ o % 4 = 0) o hreg
      · omega
    exact step_read_returns h hlt h4
  · exact step_read h (by omega) h4 (busTarget_reserved (.inr (.inr ho))) (.inr rfl)

end Sys2Proof.Machine
end

section
/-! PROOFS. The schedule of the host's accesses (70_reset_and_hazards.md R255 to R258). While BUSY an access touches only
what `SameResults` leaves out (`act_access_sameResults`), and on two states that differ there and nowhere else every command
has the same outcome (`exec_sameOutcome`): no command reads OVERRUN, the read log or the count of draws. -/

namespace Sys2Proof.Machine

/-! ### States that agree on the results -/

theorem SameResults.refl (s : State) : SameResults s s :=
  ⟨rfl, rfl, rfl, rfl, rfl, rfl, rfl, rfl, rfl, rfl, rfl, rfl, rfl⟩

theorem SameResults.trans {s t u : State} (h : SameResults s t) (h' : SameResults t u) : SameResults s u :=
  ⟨h'.params.trans h.params, h'.live.trans h.live, h'.busy.trans h.busy, h'.done.trans h.done, h'.err.trans h.err,
    h'.encInfo.trans h.encInfo, h'.result.trans h.result, h'.block0.trans h.block0, h'.block1.trans h.block1,
    h'.seq.trans h.seq, h'.sc.trans h.sc, h'.mem.trans h.mem, h'.epoch.trans h.epoch⟩

/-- Such a state is the other one but for STATUS and what is the host's. -/
theorem SameResults.eq_setHost {s u : State} (h : SameResults s u) :
    u = { s with status := u.status, draws := u.draws, script := u.script, readLog := u.readLog } := by
  obtain ⟨hparams, hlive, -, -, -, hinfo, hresult, hblock0, hblock1, hseq, hsc, hmem, hepoch⟩ := h
  cases s
  cases u
  simp_all

/-! ### Host accesses while BUSY -/

/-- A host access while BUSY is a read, which changes no state of the core, or a write, which sets OVERRUN. -/
theorem act_access_sameResults {a : HostAction} {s t : State} (ha : a.isAccess = true)
    (hbusy : statusBusy s.status = true) (h : act a s = .next t) : SameResults s t := by
  cases a with
  | read width addr =>
    rcases hostRead_cases h with ⟨-, rfl⟩ | ⟨-, -, rfl⟩
    · exact .refl _
    · obtain ⟨v, n, hread⟩ := busRead_cases s addr (busTarget s.params (addr - s.params.coreBase))
      rw [hread]
      exact { SameResults.refl s with }
  | write width addr v =>
    rcases hostWrite_cases h with ⟨-, rfl⟩ | ⟨-, -, rfl⟩
    · exact .refl _
    · rw [busWrite_busy _ _ _ hbusy]
      exact { SameResults.refl s with
        busy := statusBusy_atOverrun _, done := statusDone_atOverrun _, err := statusErr_atOverrun _ }
  | complete => cases ha
  | reset => cases ha

/-- The command stays in execution from access to access, so every write of the list is ignored. -/
theorem actAll_access_sameResults {acts : List HostAction} {s u : State} (hacts : ∀ a ∈ acts, a.isAccess = true)
    (hbusy : statusBusy s.status = true) (h : actAll acts s = .next u) : SameResults s u := by
  induction acts generalizing s with
  | nil => cases h; exact .refl _
  | cons a rest ih =>
    obtain ⟨ha, hrest⟩ := List.forall_mem_cons.1 hacts
    rw [actAll] at h
    cases hact : act a s with
    | next t =>
      rw [hact] at h
      have hst : SameResults s t := act_access_sameResults ha hbusy hact
      exact hst.trans (ih hrest (hst.busy.trans hbusy) h)
    | fault f => rw [hact] at h; cases h
    | refused r => rw [hact] at h; cases h

/-! ### Commands on states that agree -/

/-- Two outcomes with the same results: both answer, or both stop with the same fault. -/
inductive SameOutcome : Host.Outcome State Fault Refusal → Host.Outcome State Fault Refusal → Prop
  | next {t t' : State} (h : SameResults t t') : SameOutcome (.next t) (.next t')
  | fault (f : Fault) : SameOutcome (.fault f) (.fault f)

theorem SameOutcome.next_of {o o' : Host.Outcome State Fault Refusal} (h : SameOutcome o o') {t : State}
    (ho : o = .next t) : ∃ t', o' = .next t' ∧ SameResults t t' := by
  subst ho
  cases h with
  | next h => exact ⟨_, rfl, h⟩

theorem SameOutcome.fault_of {o o' : Host.Outcome State Fault Refusal} (h : SameOutcome o o') {f : Fault}
    (ho : o = .fault f) : o' = .fault f := by
  subst ho
  cases h with
  | fault => rfl

section
variable {s u : State} (h : SameResults s u)
include h

/-! What a command reads is the same. -/

theorem SameResults.operands : u.operands = s.operands := by rw [h.eq_setHost]; rfl
theorem SameResults.argInt0 : u.argInt0 = s.argInt0 := congrArg (·.arg0.toInt) h.operands
theorem SameResults.argInt1 : u.argInt1 = s.argInt1 := congrArg (·.arg1.toInt) h.operands
theorem SameResults.argInt3 : u.argInt3 = s.argInt3 := congrArg (·.arg3.toInt) h.operands
theorem SameResults.block (slot : Slot) : u.block slot = s.block slot := by rw [h.eq_setHost]; cases slot <;> rfl
theorem SameResults.outIndex : u.outIndex = s.outIndex := by rw [h.eq_setHost]; rfl
theorem SameResults.checkDst (off : Int) : checkDst u off = checkDst s off := by rw [h.eq_setHost]; rfl
theorem SameResults.loadValues : loadValues u = loadValues s := by rw [h.eq_setHost]; rfl

/-! What a command writes leaves them agreeing. -/

theorem SameResults.finish (c : ErrCode) : SameResults (s.finish c) (u.finish c) :=
  { h with busy := by simp, done := by simp, err := by simp, seq := rfl }

theorem SameResults.setBlock (slot : Slot) (b : Block) : SameResults (s.setBlock slot b) (u.setBlock slot b) := by
  cases slot with
  | b0 => exact { h with block0 := rfl }
  | b1 => exact { h with block1 := rfl }

theorem SameResults.finishResult (v : Word) : SameResults (s.finishResult v) (u.finishResult v) :=
  SameResults.finish (s := { s with result := v }) (u := { u with result := v }) { h with result := rfl } .none

theorem SameResults.finishBlock (slot : Slot) (b : Block) : SameResults (s.finishBlock slot b) (u.finishBlock slot b) :=
  (h.setBlock slot b).finish .none

theorem SameResults.finishEncode (ch : Channel) (slot : Slot) (sc : Scratch) :
    SameResults (s.finishEncode ch slot sc) (u.finishEncode ch slot sc) := by
  refine SameResults.finish ?_ .none
  exact { h.setBlock slot (encodedBlock sc) with sc := rfl, encInfo := rfl }

theorem SameResults.outWrite (j : Nat) (w : Word) : SameResults (s.outWrite j w) (u.outWrite j w) :=
  { h with mem := congrArg (·.writeWord (outOffset j) w) h.mem }

theorem SameResults.outWriteAll (j : Nat) (ws : List Word) :
    SameResults (s.outWriteAll j ws) (u.outWriteAll j ws) := by
  induction ws generalizing s u j with
  | nil => exact h
  | cons w ws ih => exact ih (j := j + 1) (h.outWrite j w)

/-- A check whose two branches agree. -/
theorem SameResults.raiseUnless {t t' : State} (ok : Bool) (ht : SameResults t t') (c : ErrCode) :
    SameResults (if ok then t else s.raiseError c) (if ok then t' else u.raiseError c) := by
  cases ok with
  | true => exact ht
  | false => exact h.finish c

theorem SameResults.setEndpoint (ch : Channel) (slot : Slot) (ep : Ep) :
    SameResults (setEndpoint ch slot ep s) (setEndpoint ch slot ep u) := by
  simp only [Machine.setEndpoint, h.argInt3, h.block]
  exact h.raiseUnless _ (h.finishBlock _ _) _

theorem SameResults.getEntry (pal : List Word) : SameResults (getEntry pal s) (getEntry pal u) := by
  simp only [Machine.getEntry, h.argInt0]
  exact h.raiseUnless _ (h.finishResult _) _

theorem SameResults.writePalette (pal : List Word) : SameResults (writePalette pal s) (writePalette pal u) := by
  simp only [Machine.writePalette, h.argInt0, h.checkDst, h.outIndex]
  split
  · exact (h.outWriteAll _ _).finish .none
  · exact h.finish _

theorem encodeChannel_sameOutcome (ch : Channel) (slot : Slot) :
    SameOutcome (encodeChannel ch slot s) (encodeChannel ch slot u) := by
  simp only [encodeChannel, h.operands, h.loadValues, State.encodeScratch, h.sc]
  split
  · split
    · exact .next (h.finishEncode _ _ _)
    · exact .fault _
  · exact .next (h.finish _)

/-- No command's outcome depends on OVERRUN, on the read log or on the count of draws (70_reset_and_hazards.md R256). -/
theorem exec_sameOutcome (i : Instr) : SameOutcome (exec i s) (exec i u) := by
  cases i with
  | nop => exact .next (h.finish _)
  | encodeU slot => exact encodeChannel_sameOutcome h .unsigned slot
  | encodeS slot => exact encodeChannel_sameOutcome h .signed slot
  | getEpU slot ep | getEpS slot ep =>
    simp only [exec, execGetEpU, execGetEpS, getEndpoint, h.block]
    exact .next (h.finishResult _)
  | setEpU slot ep | setEpS slot ep => exact .next (h.setEndpoint _ slot ep)
  | getIdx slot =>
    simp only [exec, execGetIdx, getIndex, next_ite, h.argInt0, h.block]
    exact .next (h.raiseUnless _ (h.finishResult _) _)
  | setIdx slot =>
    simp only [exec, execSetIdx, setIndex, next_ite, h.argInt0, h.argInt3, h.block]
    exact .next (h.raiseUnless _ (h.finishBlock _ _) _)
  | getIdxXY slot =>
    simp only [exec, execGetIdxXY, getIndex, next_ite, h.argInt0, h.argInt1, h.block]
    exact .next (h.raiseUnless _ (h.finishResult _) _)
  | setIdxXY slot =>
    simp only [exec, execSetIdxXY, setIndex, next_ite, h.argInt0, h.argInt1, h.argInt3, h.block]
    exact .next (h.raiseUnless _ (h.finishBlock _ _) _)
  | getRUI slot | getRUF slot | getRSI slot | getRSF slot =>
    simp only [exec, execGetRUI, execGetRUF, execGetRSI, execGetRSF, h.block]
    exact .next (h.getEntry _)
  | getRValuesUI slot | getRValuesUF slot | getRValuesSI slot | getRValuesSF slot =>
    simp only [exec, execGetRValuesUI, execGetRValuesUF, execGetRValuesSI, execGetRValuesSF, h.block]
    exact .next (h.writePalette _)

/-- The completion of the same word, legal or not, on states that agree. -/
theorem coreStep_sameOutcome : SameOutcome (coreStep s) (coreStep u) := by
  simp only [coreStep, h.seq]
  split
  · exact .next h
  · split
    · exact exec_sameOutcome h _
    · exact .next (h.finish _)

end

/-- Settles O58: the accesses leave a state that agrees with the first, and the core's step keeps two such together. -/
theorem scheduleDoesNotMatter : Obligations.ScheduleDoesNotMatter := by
  intro acts s u hbusy hacts hall
  have hsame : SameOutcome (coreStep s) (coreStep u) :=
    coreStep_sameOutcome (actAll_access_sameResults hacts hbusy hall)
  exact ⟨fun _ => hsame.next_of, fun _ => hsame.fault_of⟩

end Sys2Proof.Machine
end
